-- ==== Sys2Proof/Word.lean ====
section
/-! DEFINITION. The machine's plain value types: bytes, 16-bit words, register numbers. -/

namespace Sys2Proof

/-- A memory byte, a general register, a timer (10_state.md R20, R28; 20_memory.md R50). -/
abbrev Byte := BitVec 8

/-- An instruction word, `I`, `pc`, a stack entry (30_encoding.md R70; 10_state.md R23, R24, R27). -/
abbrev Word := BitVec 16

/-- A 12-bit address immediate, the field `nnn` (30_encoding.md R71). -/
abbrev Addr12 := BitVec 12

/-- The number of a general register or of an input latch; all 16 values name one
(30_encoding.md R73; 10_state.md R20, R30). -/
abbrev RegIdx := Fin 16

end Sys2Proof
end

