-- ==== Sys2Proof/Syntax.lean ====
section
/-! DEFINITION. The instructions: one constructor for each mnemonic of spec/opcode_table.json, with the
operands that the assembler spelling of 30_encoding.md R90 gives it. -/

namespace Sys2Proof

/-- An instruction (30_encoding.md R83 to R93). The "no-op/unknown" case is a variant of its own, `nop`,
which carries the data word that R90 spells `DW 0xhhhh` (log entry 6). -/
inductive Instr where
  /-- CLS, `0x0hh0` (R200). -/
  | cls
  /-- RET, `0x0hhE` (R101). -/
  | ret
  /-- JP addr, `1nnn` (R102). -/
  | jp (nnn : Addr12)
  /-- CALL addr, `2nnn` (R103). -/
  | call (nnn : Addr12)
  /-- SE Vx, byte, `3xkk` (R104). -/
  | seImm (x : RegIdx) (kk : Byte)
  /-- SNE Vx, byte, `4xkk` (R105). -/
  | sneImm (x : RegIdx) (kk : Byte)
  /-- SE Vx, Vy, `5xyN` (R106). -/
  | seReg (x y : RegIdx)
  /-- LD Vx, byte, `6xkk` (R131). -/
  | ldImm (x : RegIdx) (kk : Byte)
  /-- ADD Vx, byte, `7xkk` (R132). -/
  | addImm (x : RegIdx) (kk : Byte)
  /-- LD Vx, Vy, `8xy0` (R133). -/
  | ldReg (x y : RegIdx)
  /-- OR Vx, Vy, `8xy1` (R134). -/
  | or (x y : RegIdx)
  /-- AND Vx, Vy, `8xy2` (R135). -/
  | and (x y : RegIdx)
  /-- XOR Vx, Vy, `8xy3` (R136). -/
  | xor (x y : RegIdx)
  /-- ADD Vx, Vy, `8xy4` (R137). -/
  | addReg (x y : RegIdx)
  /-- SUB Vx, Vy, `8xy5` (R138). -/
  | sub (x y : RegIdx)
  /-- SHR Vx (, Vy), `8xy6` (R139); `y` is decoded and ignored. -/
  | shr (x y : RegIdx)
  /-- SUBN Vx, Vy, `8xy7` (R140). -/
  | subn (x y : RegIdx)
  /-- SHL Vx (, Vy), `8xyE` (R141); `y` is decoded and ignored. -/
  | shl (x y : RegIdx)
  /-- SNE Vx, Vy, `9xyN` (R107). -/
  | sneReg (x y : RegIdx)
  /-- LD I, addr, `Annn` (R171). -/
  | ldI (nnn : Addr12)
  /-- JP V0, addr, `Bnnn` (R108). -/
  | jpV0 (nnn : Addr12)
  /-- RND Vx, byte, `Cxkk` (R142). -/
  | rnd (x : RegIdx) (kk : Byte)
  /-- DRW Vx, Vy, nibble, `Dxyn` (R201); `n` is the number of sprite rows, 0 to 15. -/
  | drw (x y : RegIdx) (n : Fin 16)
  /-- SKP Vx, `ExhE` (R220). -/
  | skp (x : RegIdx)
  /-- SKNP Vx, `Exh1` (R221). -/
  | sknp (x : RegIdx)
  /-- LD Vx, DT, `Fx07` (R222). -/
  | ldVxDt (x : RegIdx)
  /-- LD Vx, K, `Fx0A` (R223). -/
  | ldVxK (x : RegIdx)
  /-- LD DT, Vx, `Fx15` (R224). -/
  | ldDtVx (x : RegIdx)
  /-- LD ST, Vx, `Fx18` (R225). -/
  | ldStVx (x : RegIdx)
  /-- ADD I, Vx, `Fx1E` (R172). -/
  | addI (x : RegIdx)
  /-- LD F, Vx, `Fx29` (R173). -/
  | ldF (x : RegIdx)
  /-- LD B, Vx, `Fx33` (R174). -/
  | ldB (x : RegIdx)
  /-- LD [I], Vx, `Fx55` (R175). -/
  | ldMemVx (x : RegIdx)
  /-- LD Vx, [I], `Fx65` (R176). -/
  | ldVxMem (x : RegIdx)
  /-- DW word, any word that no other instruction claims (R88, R90). -/
  | nop (word : Word)
  deriving DecidableEq, Repr

/-- The mnemonics of spec/opcode_table.json, spelled as there. -/
inductive Mnemonic where
  | CLS | RET | JP | CALL | SE_IMM | SNE_IMM | SE_REG | LD_IMM | ADD_IMM
  | LD_REG | OR | AND | XOR | ADD_REG | SUB | SHR | SUBN | SHL | SNE_REG
  | LD_I | JP_V0 | RND | DRW | SKP | SKNP
  | LD_VX_DT | LD_VX_K | LD_DT_VX | LD_ST_VX | ADD_I | LD_F | LD_B | LD_MEM_VX | LD_VX_MEM
  | NOP
  deriving DecidableEq, Repr

/-- The mnemonic of an instruction, in the table's spelling. -/
def Instr.mnemonic : Instr → Mnemonic
  | .cls => .CLS
  | .ret => .RET
  | .jp _ => .JP
  | .call _ => .CALL
  | .seImm _ _ => .SE_IMM
  | .sneImm _ _ => .SNE_IMM
  | .seReg _ _ => .SE_REG
  | .ldImm _ _ => .LD_IMM
  | .addImm _ _ => .ADD_IMM
  | .ldReg _ _ => .LD_REG
  | .or _ _ => .OR
  | .and _ _ => .AND
  | .xor _ _ => .XOR
  | .addReg _ _ => .ADD_REG
  | .sub _ _ => .SUB
  | .shr _ _ => .SHR
  | .subn _ _ => .SUBN
  | .shl _ _ => .SHL
  | .sneReg _ _ => .SNE_REG
  | .ldI _ => .LD_I
  | .jpV0 _ => .JP_V0
  | .rnd _ _ => .RND
  | .drw _ _ _ => .DRW
  | .skp _ => .SKP
  | .sknp _ => .SKNP
  | .ldVxDt _ => .LD_VX_DT
  | .ldVxK _ => .LD_VX_K
  | .ldDtVx _ => .LD_DT_VX
  | .ldStVx _ => .LD_ST_VX
  | .addI _ => .ADD_I
  | .ldF _ => .LD_F
  | .ldB _ => .LD_B
  | .ldMemVx _ => .LD_MEM_VX
  | .ldVxMem _ => .LD_VX_MEM
  | .nop _ => .NOP

end Sys2Proof
end

