-- ==== Sys2Proof/WellFormed.lean ====
section
/-! DEFINITION. Which instructions an encoding exists for. Register numbers, counts and immediates are in
range by their types; the one check left is that the word a `nop` carries is a word that no instruction
claims. -/

namespace Sys2Proof

/-- The sub-keys of family F that name an instruction (30_encoding.md R87). -/
def mappedLastBytes : List Nat := [0x07, 0x0A, 0x15, 0x18, 0x1E, 0x29, 0x33, 0x55, 0x65]

/-- The words that 30_encoding.md R84 to R87 map to no instruction: an unmapped sub-key of family 0, 8
or E (the last nibble) or of family F (the last byte). Every word of the twelve other families is
mapped. -/
def unmapped (w : Word) : Bool :=
  let family := w.toNat / 0x1000
  let lastNibble := w.toNat % 0x10
  let lastByte := w.toNat % 0x100
  (family == 0x0 && !([0x0, 0xE].contains lastNibble)) ||
  (family == 0x8 && !([0x0, 0x1, 0x2, 0x3, 0x4, 0x5, 0x6, 0x7, 0xE].contains lastNibble)) ||
  (family == 0xE && !([0x1, 0xE].contains lastNibble)) ||
  (family == 0xF && !(mappedLastBytes.contains lastByte))

/-- An instruction that has an encoding: every one but a `nop` whose word another instruction claims
(30_encoding.md R90: `DW` is the spelling of "any unmapped word"). -/
def Instr.WellFormed : Instr → Bool
  | .cls | .ret => true
  | .jp _ | .call _ | .ldI _ | .jpV0 _ => true
  | .seImm _ _ | .sneImm _ _ | .ldImm _ _ | .addImm _ _ | .rnd _ _ => true
  | .seReg _ _ | .sneReg _ _ => true
  | .ldReg _ _ | .or _ _ | .and _ _ | .xor _ _ => true
  | .addReg _ _ | .sub _ _ | .shr _ _ | .subn _ _ | .shl _ _ => true
  | .drw _ _ _ => true
  | .skp _ | .sknp _ => true
  | .ldVxDt _ | .ldVxK _ | .ldDtVx _ | .ldStVx _ => true
  | .addI _ | .ldF _ | .ldB _ | .ldMemVx _ | .ldVxMem _ => true
  | .nop w => unmapped w

end Sys2Proof
end

