-- ==== Sys2Proof/Decode.lean ====
section
/-! DEFINITION. Instruction words: their fields and byte order, the decoder, the encoder, and the opcode
table as data. -/

namespace Sys2Proof

/-! ## Fields and byte order -/

/-- `op = w[15:12]`, the family (30_encoding.md R71, R83). -/
def opField (w : Word) : BitVec 4 := w.extractLsb' 12 4

/-- `x = w[11:8]` as a register number (R71, R74). -/
def xField (w : Word) : RegIdx := (w.extractLsb' 8 4).toFin

/-- `y = w[7:4]` as a register number (R71, R74). -/
def yField (w : Word) : RegIdx := (w.extractLsb' 4 4).toFin

/-- `n = w[3:0]`, the sprite height and the sub-key of families 0, 8 and E (R71, R74). -/
def nField (w : Word) : Fin 16 := (w.extractLsb' 0 4).toFin

/-- `kk = w[7:0]`, the byte immediate and the sub-key of family F (R71, R74). -/
def kkField (w : Word) : Byte := w.extractLsb' 0 8

/-- `nnn = w[11:0]`, the address immediate (R71, R74). -/
def nnnField (w : Word) : Addr12 := w.extractLsb' 0 12

/-- The word of two bytes, the first one from the lower address: it is bits 15 to 8
(20_memory.md R54). -/
def wordOfBytes (first second : Byte) : Word := first ++ second

/-- The byte of a word at the lower address (20_memory.md R54). -/
def firstByte (w : Word) : Byte := w.extractLsb' 8 8

/-- The byte of a word at the higher address (20_memory.md R54). -/
def secondByte (w : Word) : Byte := w.extractLsb' 0 8

/-! ## The decoder -/

/-- Family 0, keyed on the last nibble only: bits 11 to 4 are not examined (30_encoding.md R84). -/
def decodeFamily0 (w : Word) : Instr :=
  match (nField w).val with
  | 0x0 => .cls
  | 0xE => .ret
  | _ => .nop w

/-- Family 8, keyed on the last nibble (30_encoding.md R85). -/
def decodeFamily8 (w : Word) : Instr :=
  match (nField w).val with
  | 0x0 => .ldReg (xField w) (yField w)
  | 0x1 => .or (xField w) (yField w)
  | 0x2 => .and (xField w) (yField w)
  | 0x3 => .xor (xField w) (yField w)
  | 0x4 => .addReg (xField w) (yField w)
  | 0x5 => .sub (xField w) (yField w)
  | 0x6 => .shr (xField w) (yField w)
  | 0x7 => .subn (xField w) (yField w)
  | 0xE => .shl (xField w) (yField w)
  | _ => .nop w

/-- Family E, keyed on the last nibble only: bits 7 to 4 are not examined (30_encoding.md R86). -/
def decodeFamilyE (w : Word) : Instr :=
  match (nField w).val with
  | 0xE => .skp (xField w)
  | 0x1 => .sknp (xField w)
  | _ => .nop w

/-- Family F, keyed on the last byte (30_encoding.md R87). -/
def decodeFamilyF (w : Word) : Instr :=
  match (kkField w).toNat with
  | 0x07 => .ldVxDt (xField w)
  | 0x0A => .ldVxK (xField w)
  | 0x15 => .ldDtVx (xField w)
  | 0x18 => .ldStVx (xField w)
  | 0x1E => .addI (xField w)
  | 0x29 => .ldF (xField w)
  | 0x33 => .ldB (xField w)
  | 0x55 => .ldMemVx (xField w)
  | 0x65 => .ldVxMem (xField w)
  | _ => .nop w

/-- Decoding is total: every word is one of the 34 instructions or a NOP (30_encoding.md R83, R92, R93).
Bits 3 to 0 of families 5 and 9 are ignored (R92). -/
def decode (w : Word) : Instr :=
  match (opField w).toNat with
  | 0x0 => decodeFamily0 w
  | 0x1 => .jp (nnnField w)
  | 0x2 => .call (nnnField w)
  | 0x3 => .seImm (xField w) (kkField w)
  | 0x4 => .sneImm (xField w) (kkField w)
  | 0x5 => .seReg (xField w) (yField w)
  | 0x6 => .ldImm (xField w) (kkField w)
  | 0x7 => .addImm (xField w) (kkField w)
  | 0x8 => decodeFamily8 w
  | 0x9 => .sneReg (xField w) (yField w)
  | 0xA => .ldI (nnnField w)
  | 0xB => .jpV0 (nnnField w)
  | 0xC => .rnd (xField w) (kkField w)
  | 0xD => .drw (xField w) (yField w) (nField w)
  | 0xE => decodeFamilyE w
  | _ => decodeFamilyF w  -- 0xF, the one value left

/-- Why bytes give no instruction. No word is refused (30_encoding.md R92); only a missing byte is. -/
inductive DecodeReject where
  /-- Fewer than the two bytes every instruction has (30_encoding.md R70). -/
  | truncated
  deriving DecidableEq, Repr

/-- What the decoder answers on a string of bytes. -/
inductive Decoded where
  /-- An instruction, and the bytes after its word. -/
  | instr (i : Instr) (rest : List Byte)
  /-- No instruction, and why. -/
  | rejected (why : DecodeReject)
  deriving DecidableEq, Repr

/-- The decoder on bytes in ascending address order: one two-byte word, big-endian
(30_encoding.md R70; 20_memory.md R54). -/
def decodeBytes : List Byte → Decoded
  | first :: second :: rest => .instr (decode (wordOfBytes first second)) rest
  | [_] | [] => .rejected .truncated

/-! ## The encoder -/

/-- A register number, or a count, as the four bits of a field (30_encoding.md R71). -/
def nibble (x : Fin 16) : BitVec 4 := BitVec.ofFin x

/-- A word of format `NNN` (30_encoding.md R72). -/
def wordNNN (op : BitVec 4) (nnn : Addr12) : Word := op ++ nnn

/-- A word of format `XKK`, and of format `X` with its sub-key in `kk` (30_encoding.md R72). -/
def wordXKK (op : BitVec 4) (x : RegIdx) (kk : Byte) : Word := op ++ nibble x ++ kk

/-- A word of format `XYN`, and of format `XY` with its sub-key in `n` (30_encoding.md R72). -/
def wordXYN (op : BitVec 4) (x y : RegIdx) (n : Fin 16) : Word :=
  op ++ nibble x ++ nibble y ++ nibble n

/-- The canonical word of an instruction, as an assembler emits it (30_encoding.md R90): ignored bits
have their canonical values (log entry 6). -/
def encode : Instr → Word
  | .cls => 0x00E0
  | .ret => 0x00EE
  | .jp nnn => wordNNN 0x1 nnn
  | .call nnn => wordNNN 0x2 nnn
  | .seImm x kk => wordXKK 0x3 x kk
  | .sneImm x kk => wordXKK 0x4 x kk
  | .seReg x y => wordXYN 0x5 x y 0x0
  | .ldImm x kk => wordXKK 0x6 x kk
  | .addImm x kk => wordXKK 0x7 x kk
  | .ldReg x y => wordXYN 0x8 x y 0x0
  | .or x y => wordXYN 0x8 x y 0x1
  | .and x y => wordXYN 0x8 x y 0x2
  | .xor x y => wordXYN 0x8 x y 0x3
  | .addReg x y => wordXYN 0x8 x y 0x4
  | .sub x y => wordXYN 0x8 x y 0x5
  | .shr x y => wordXYN 0x8 x y 0x6
  | .subn x y => wordXYN 0x8 x y 0x7
  | .shl x y => wordXYN 0x8 x y 0xE
  | .sneReg x y => wordXYN 0x9 x y 0x0
  | .ldI nnn => wordNNN 0xA nnn
  | .jpV0 nnn => wordNNN 0xB nnn
  | .rnd x kk => wordXKK 0xC x kk
  | .drw x y n => wordXYN 0xD x y n
  | .skp x => wordXKK 0xE x 0x9E
  | .sknp x => wordXKK 0xE x 0xA1
  | .ldVxDt x => wordXKK 0xF x 0x07
  | .ldVxK x => wordXKK 0xF x 0x0A
  | .ldDtVx x => wordXKK 0xF x 0x15
  | .ldStVx x => wordXKK 0xF x 0x18
  | .addI x => wordXKK 0xF x 0x1E
  | .ldF x => wordXKK 0xF x 0x29
  | .ldB x => wordXKK 0xF x 0x33
  | .ldMemVx x => wordXKK 0xF x 0x55
  | .ldVxMem x => wordXKK 0xF x 0x65
  | .nop w => w

/-- The bytes of an instruction in ascending address order (20_memory.md R54). -/
def encodeBytes (i : Instr) : List Byte := [firstByte (encode i), secondByte (encode i)]

/-- The instruction the decoder reads from a row of spec/opcode_table.json whose bits are `w`: the one
16-bit word, laid out as memory holds it and given to `decodeBytes`. -/
def decodeTableWord (nbits w : Nat) : Option Instr :=
  let word := BitVec.ofNat 16 (w % 2 ^ nbits)
  match decodeBytes [firstByte word, secondByte word] with
  | .instr i _ => some i
  | .rejected _ => none

/-! ## The opcode table

Independent of `decode`: copied row by row from spec/opcode_table.json, 34 instruction rows and 47 NOP
rows (30_encoding.md R92). -/

/-- One row: a word is of the row when its bits under `mask` are `bits` (the table's "match"). -/
structure OpcodeRow where
  mnemonic : Mnemonic
  bits : Word
  mask : Word
  deriving DecidableEq, Repr

/-- Whether a word is of a row. -/
def OpcodeRow.claims (r : OpcodeRow) (w : Word) : Bool := w &&& r.mask == r.bits

/-- The rows of spec/opcode_table.json for families 0 to 7. -/
def rowsFlow : List OpcodeRow :=
  [⟨.CLS, 0x0000, 0xF00F⟩,
   ⟨.RET, 0x000E, 0xF00F⟩,
   ⟨.JP, 0x1000, 0xF000⟩,
   ⟨.CALL, 0x2000, 0xF000⟩,
   ⟨.SE_IMM, 0x3000, 0xF000⟩,
   ⟨.SNE_IMM, 0x4000, 0xF000⟩,
   ⟨.SE_REG, 0x5000, 0xF000⟩,
   ⟨.LD_IMM, 0x6000, 0xF000⟩,
   ⟨.ADD_IMM, 0x7000, 0xF000⟩]

/-- The mapped rows of family 8. -/
def rowsAlu : List OpcodeRow :=
  [⟨.LD_REG, 0x8000, 0xF00F⟩,
   ⟨.OR, 0x8001, 0xF00F⟩,
   ⟨.AND, 0x8002, 0xF00F⟩,
   ⟨.XOR, 0x8003, 0xF00F⟩,
   ⟨.ADD_REG, 0x8004, 0xF00F⟩,
   ⟨.SUB, 0x8005, 0xF00F⟩,
   ⟨.SHR, 0x8006, 0xF00F⟩,
   ⟨.SUBN, 0x8007, 0xF00F⟩,
   ⟨.SHL, 0x800E, 0xF00F⟩]

/-- The mapped rows of families 9 to E. -/
def rowsUpper : List OpcodeRow :=
  [⟨.SNE_REG, 0x9000, 0xF000⟩,
   ⟨.LD_I, 0xA000, 0xF000⟩,
   ⟨.JP_V0, 0xB000, 0xF000⟩,
   ⟨.RND, 0xC000, 0xF000⟩,
   ⟨.DRW, 0xD000, 0xF000⟩,
   ⟨.SKP, 0xE00E, 0xF00F⟩,
   ⟨.SKNP, 0xE001, 0xF00F⟩]

/-- The mapped rows of family F. -/
def rowsF : List OpcodeRow :=
  [⟨.LD_VX_DT, 0xF007, 0xF0FF⟩,
   ⟨.LD_VX_K, 0xF00A, 0xF0FF⟩,
   ⟨.LD_DT_VX, 0xF015, 0xF0FF⟩,
   ⟨.LD_ST_VX, 0xF018, 0xF0FF⟩,
   ⟨.ADD_I, 0xF01E, 0xF0FF⟩,
   ⟨.LD_F, 0xF029, 0xF0FF⟩,
   ⟨.LD_B, 0xF033, 0xF0FF⟩,
   ⟨.LD_MEM_VX, 0xF055, 0xF0FF⟩,
   ⟨.LD_VX_MEM, 0xF065, 0xF0FF⟩]

/-- The NOP rows of families 0, 8 and E. -/
def rowsNopNibble : List OpcodeRow :=
  [⟨.NOP, 0x0001, 0xF00F⟩,
   ⟨.NOP, 0x0002, 0xF00E⟩,
   ⟨.NOP, 0x0004, 0xF00C⟩,
   ⟨.NOP, 0x0008, 0xF00C⟩,
   ⟨.NOP, 0x000C, 0xF00E⟩,
   ⟨.NOP, 0x000F, 0xF00F⟩,
   ⟨.NOP, 0x8008, 0xF00C⟩,
   ⟨.NOP, 0x800C, 0xF00E⟩,
   ⟨.NOP, 0x800F, 0xF00F⟩,
   ⟨.NOP, 0xE000, 0xF00F⟩,
   ⟨.NOP, 0xE002, 0xF00E⟩,
   ⟨.NOP, 0xE004, 0xF00C⟩,
   ⟨.NOP, 0xE008, 0xF00C⟩,
   ⟨.NOP, 0xE00C, 0xF00E⟩,
   ⟨.NOP, 0xE00F, 0xF00F⟩]

/-- The NOP rows of family F below sub-key 0x28. -/
def rowsNopByteLow : List OpcodeRow :=
  [⟨.NOP, 0xF000, 0xF0FC⟩,
   ⟨.NOP, 0xF004, 0xF0FE⟩,
   ⟨.NOP, 0xF006, 0xF0FF⟩,
   ⟨.NOP, 0xF008, 0xF0FE⟩,
   ⟨.NOP, 0xF00B, 0xF0FF⟩,
   ⟨.NOP, 0xF00C, 0xF0FC⟩,
   ⟨.NOP, 0xF010, 0xF0FC⟩,
   ⟨.NOP, 0xF014, 0xF0FF⟩,
   ⟨.NOP, 0xF016, 0xF0FE⟩,
   ⟨.NOP, 0xF019, 0xF0FF⟩,
   ⟨.NOP, 0xF01A, 0xF0FE⟩,
   ⟨.NOP, 0xF01C, 0xF0FE⟩,
   ⟨.NOP, 0xF01F, 0xF0FF⟩,
   ⟨.NOP, 0xF020, 0xF0F8⟩]

/-- The NOP rows of family F from sub-key 0x28. -/
def rowsNopByteHigh : List OpcodeRow :=
  [⟨.NOP, 0xF028, 0xF0FF⟩,
   ⟨.NOP, 0xF02A, 0xF0FE⟩,
   ⟨.NOP, 0xF02C, 0xF0FC⟩,
   ⟨.NOP, 0xF030, 0xF0FE⟩,
   ⟨.NOP, 0xF032, 0xF0FF⟩,
   ⟨.NOP, 0xF034, 0xF0FC⟩,
   ⟨.NOP, 0xF038, 0xF0F8⟩,
   ⟨.NOP, 0xF040, 0xF0F0⟩,
   ⟨.NOP, 0xF050, 0xF0FC⟩,
   ⟨.NOP, 0xF054, 0xF0FF⟩,
   ⟨.NOP, 0xF056, 0xF0FE⟩,
   ⟨.NOP, 0xF058, 0xF0F8⟩,
   ⟨.NOP, 0xF060, 0xF0FC⟩,
   ⟨.NOP, 0xF064, 0xF0FF⟩,
   ⟨.NOP, 0xF066, 0xF0FE⟩,
   ⟨.NOP, 0xF068, 0xF0F8⟩,
   ⟨.NOP, 0xF070, 0xF0F0⟩,
   ⟨.NOP, 0xF080, 0xF080⟩]

/-- All 81 rows of spec/opcode_table.json. -/
def opcodeTable : List OpcodeRow :=
  rowsFlow ++ rowsAlu ++ rowsUpper ++ rowsF ++ rowsNopNibble ++ rowsNopByteLow ++ rowsNopByteHigh

end Sys2Proof
end

