-- ==== Sys2Proof/Config.lean ====
section
/-! DEFINITION. The parameters of 00_scope.md R7, the font of 20_memory.md R56, and the one free value
of the machine, the random byte of Cxkk. -/

namespace Sys2Proof.Config

/-- `MEM_SIZE`, and `ADDR_LIMIT`, the first address outside memory (R7). -/
abbrev addrLimit : Nat := 0x1000

/-- `LOAD_ADDR`, where programs are placed and where `pc` starts (R7). -/
abbrev loadAddr : Nat := 0x200

/-- `MAX_IMAGE` (R7): the longest program image that fits. -/
abbrev maxImage : Nat := addrLimit - loadAddr

/-- `STACK_DEPTH` (R7). -/
abbrev stackDepth : Nat := 16

/-- `NKEYS` (R7). -/
abbrev numKeys : Nat := 16

/-- `WIDTH` of the framebuffer (R7). -/
abbrev width : Nat := 64

/-- `HEIGHT` of the framebuffer (R7). -/
abbrev height : Nat := 32

/-- `FLAG_REG`, register VF (R7). -/
abbrev flagReg : RegIdx := 0xF

/-- `FONT_BASE` (R7; 20_memory.md R56, decision D8). -/
abbrev fontBase : Nat := 0x050

/-- `FONT_GLYPH_BYTES` (R7). -/
abbrev fontGlyphBytes : Nat := 5

/-- The number of glyphs, digits 0 to F (20_memory.md R56). -/
abbrev fontGlyphCount : Nat := 16

/-- `FONT_GLYPHS` (20_memory.md R56, decision D8): one row a digit, its five bytes in ascending address
order. The bytes are the spec's, which marks them as general knowledge (G3); see log entry 5. -/
def fontGlyphs : List (List Byte) :=
  [[0xF0, 0x90, 0x90, 0x90, 0xF0],  -- 0
   [0x20, 0x60, 0x20, 0x20, 0x70],  -- 1
   [0xF0, 0x10, 0xF0, 0x80, 0xF0],  -- 2
   [0xF0, 0x10, 0xF0, 0x10, 0xF0]]  -- 3
  ++
  [[0x90, 0x90, 0xF0, 0x10, 0x10],  -- 4
   [0xF0, 0x80, 0xF0, 0x10, 0xF0],  -- 5
   [0xF0, 0x80, 0xF0, 0x90, 0xF0],  -- 6
   [0xF0, 0x10, 0x20, 0x40, 0x40]]  -- 7
  ++
  [[0xF0, 0x90, 0xF0, 0x90, 0xF0],  -- 8
   [0xF0, 0x90, 0xF0, 0x10, 0xF0],  -- 9
   [0xF0, 0x90, 0xF0, 0x90, 0x90],  -- A
   [0xE0, 0x90, 0xE0, 0x90, 0xE0]]  -- B
  ++
  [[0xF0, 0x80, 0x80, 0x80, 0xF0],  -- C
   [0xE0, 0x90, 0x90, 0x90, 0xE0],  -- D
   [0xF0, 0x80, 0xF0, 0x80, 0xF0],  -- E
   [0xF0, 0x80, 0xF0, 0x80, 0x80]]  -- F

/-- The free value of 00_scope.md R14 (`Draw8`), used by Cxkk alone (42_alu.md R142, decision D12): the
`k`-th random byte drawn since construction. It has no body, so nothing is known of any value of it or
of how two of them are related. See log entry 1. -/
opaque freeDraw (k : Nat) : Byte

end Sys2Proof.Config
end

