-- ==== Sys2Proof/Machine/State.lean ====
section
/-! DEFINITION. The state of the machine, its reset value, and the ways a step can stop. -/

namespace Sys2Proof.Machine

/-- Memory: the cells whose byte differs from the reset contents, in rising address order
(20_memory.md R50; log entry 5). What an unlisted address reads as is `resetByte`. -/
abbrev Memory := List Host.Cell

/-- The framebuffer, row-major: row `y` from the top, column `x` from the left (10_state.md R31). -/
abbrev Framebuffer := Vector (Vector Bool Config.width) Config.height

/-- The fault causes (60_exceptions.md R242). -/
inductive FaultCause where
  /-- An instruction fetch at or above 0x1000. -/
  | fetchRange
  /-- A data access of Dxyn, Fx33, Fx55 or Fx65 at or above 0x1000. -/
  | memRange
  /-- 2nnn with 16 return addresses held. -/
  | stackOverflow
  /-- 00EE with none held. -/
  | stackUnderflow
  /-- Ex9E or ExA1 with a key index of 16 or more. -/
  | keyRange
  deriving DecidableEq, Repr

/-- What the fault latch records (10_state.md R33). -/
structure FaultRecord where
  /-- The cause (60_exceptions.md R242). -/
  cause : FaultCause
  /-- The address of the instruction that faulted. -/
  fpc : Word
  /-- The address or index that caused the fault. -/
  info : Nat
  deriving DecidableEq, Repr

/-- The state of the core (10_state.md), and one field of the model's own, `draws`. -/
structure State where
  /-- The general registers; `V[0xF]` is also the flag register (R20, R21). -/
  V : Vector Byte 16
  /-- The index register (R23). -/
  I : Word
  /-- The program counter (R24, R25). -/
  pc : Word
  /-- The stack pointer: how many return addresses are held (R26). -/
  sp : Byte
  /-- The return stack (R27). -/
  stack : Vector Word Config.stackDepth
  /-- The delay timer (R28). -/
  DT : Byte
  /-- The sound timer (R29). -/
  ST : Byte
  /-- The input latches, true while the key is pressed (R30). -/
  key : Vector Bool Config.numKeys
  /-- The pixels, true when lit (R31). -/
  fb : Framebuffer
  /-- The "needs redraw" signal (R32). -/
  redraw : Bool
  /-- The fault latch (R33). -/
  fault : Option FaultRecord
  /-- Memory (20_memory.md R50). -/
  mem : Memory
  /-- The model's own: how many random bytes have been drawn (log entries 1 and 2). -/
  draws : Nat
  deriving DecidableEq, Repr

/-- Why a step stops. The faults of 60_exceptions.md R242 do not stop the machine: they are the latch,
a next state (R241; log entry 3). -/
inductive Fault where
  /-- Raised by RET alone, when `sp` is above 16, where there is no entry to pop. Safe: by 10_state.md
  R26 no run reaches such a state, and the model only stops in it (log entry 4). -/
  | stackPointerOutOfRange
  deriving DecidableEq, Repr

/-- Why an instruction has no meaning. -/
inductive Refusal where
  /-- Answered by `exec` for an instruction that is not modelled yet, by its mnemonic. Safe. No arm
  answers it now. -/
  | notModelled (mnemonic : String)
  deriving DecidableEq, Repr

/-- The state `reset()` leaves, which is also the state after construction (70_reset_and_hazards.md R280,
R284). Memory lists nothing: every byte reads as the reset contents. `draws` starts at 0 (log entry 2). -/
def State.reset : State where
  V := Vector.replicate 16 0
  I := 0
  pc := BitVec.ofNat 16 Config.loadAddr
  sp := 0
  stack := Vector.replicate Config.stackDepth 0
  DT := 0
  ST := 0
  key := Vector.replicate Config.numKeys false
  fb := Vector.replicate Config.height (Vector.replicate Config.width false)
  redraw := false
  fault := none
  mem := []
  draws := 0

end Sys2Proof.Machine
end

