-- ==== Sys2Proof/Machine/Ops.lean ====
section
/-! DEFINITION. The named operations over memory, registers, pc, stack, latches and framebuffer, and the
one operation that takes a fault. -/

namespace Sys2Proof.Machine

/-- What executing an instruction answers. -/
abbrev Answer := Host.Outcome State Fault Refusal

/-! ## Memory -/

/-- Byte `k` of the font table: byte `k mod 5` of the glyph of digit `k div 5` (20_memory.md R56). -/
def fontByte (k : Nat) : Byte :=
  (Config.fontGlyphs.getD (k / Config.fontGlyphBytes) []).getD (k % Config.fontGlyphBytes) 0

/-- The byte that reset leaves at address `a`, which is what an unlisted address reads as: the font table
at `FONT_BASE`, and 0 everywhere else (20_memory.md R50, R56). -/
def resetByte (a : Nat) : Byte :=
  if Config.fontBase ≤ a ∧ a < Config.fontBase + Config.fontGlyphBytes * Config.fontGlyphCount then
    fontByte (a - Config.fontBase)
  else 0

/-- The byte at address `a`. Reads have no side effect (20_memory.md R58). -/
def Memory.read : Memory → Nat → Byte
  | [], a => resetByte a
  | (b, u) :: m, a => if a = b then u else Memory.read m a

/-- The list of cells with `a` holding `v`, in canonical form: a byte equal to the reset contents is not
listed. -/
def Memory.put : Memory → Nat → Byte → Memory
  | [], a, v => if v = resetByte a then [] else [(a, v)]
  | (b, u) :: m, a, v =>
    if a < b then
      if v = resetByte a then (b, u) :: m else (a, v) :: (b, u) :: m
    else if a = b then
      if v = resetByte a then m else (a, v) :: m
    else (b, u) :: Memory.put m a v

/-- Write one byte. An access at or above `ADDR_LIMIT` "does not happen" (00_scope.md R12); every
instruction checks its addresses first and takes the fault (20_memory.md R53), so no meaning comes here
with such an address. -/
def Memory.write (m : Memory) (a : Nat) (v : Byte) : Memory :=
  if a < Config.addrLimit then Memory.put m a v else m

/-- Write bytes at ascending addresses from `a` (20_memory.md R54). -/
def Memory.writeBytes (m : Memory) (a : Nat) : List Byte → Memory
  | [] => m
  | v :: vs => Memory.writeBytes (Memory.write m a v) (a + 1) vs

/-- The canonical form: addresses below `ADDR_LIMIT` and strictly rising, and no cell equal to what an
unlisted address reads as. -/
def Memory.wf : Memory → Bool
  | [] => true
  | (a, v) :: m =>
    decide (a < Config.addrLimit) && decide (v ≠ resetByte a) && m.all (fun c => decide (a < c.1)) &&
      Memory.wf m

/-! ## General registers -/

/-- `V[x]`. -/
def State.reg (s : State) (x : RegIdx) : Byte := s.V[x]

/-- `V[x] <- v`. -/
def State.setReg (s : State) (x : RegIdx) (v : Byte) : State := { s with V := s.V.set x v }

/-- `V[x] <- v`, then the flag to VF as the last write, so that the flag wins when `x = 0xF`
(42_alu.md R130; 10_state.md R21, R22). -/
def State.setRegAndFlag (s : State) (x : RegIdx) (v flag : Byte) : State :=
  (s.setReg x v).setReg Config.flagReg flag

/-! ## Index register, timers, signals -/

/-- `I <- v`. -/
def State.setI (s : State) (v : Word) : State := { s with I := v }

/-- `DT <- v`. -/
def State.setDT (s : State) (v : Byte) : State := { s with DT := v }

/-- `ST <- v`. -/
def State.setST (s : State) (v : Byte) : State := { s with ST := v }

/-- The memory replaced. -/
def State.setMem (s : State) (m : Memory) : State := { s with mem := m }

/-- The framebuffer touched: its new pixels, and `redraw` set (10_state.md R32). -/
def State.touchFb (s : State) (fb : Framebuffer) : State := { s with fb := fb, redraw := true }

/-! ## Program counter -/

/-- `pc <- target`. -/
def State.jump (s : State) (target : Word) : State := { s with pc := target }

/-- The advance of the cycle driver, `pc <- a + 2`, done before an instruction executes
(30_encoding.md R82). -/
def State.advance (s : State) : State := s.jump (s.pc + 2)

/-- `pc <- pc - 2`: in an instruction, back to its own address (45_timers_input.md R223). -/
def State.rewind (s : State) : State := s.jump (s.pc - 2)

/-- Skip exactly one word when the condition holds (41_control_flow.md R100). -/
def State.skipIf (s : State) (c : Bool) : State := if c then s.jump (s.pc + 2) else s

/-! ## Return stack -/

/-- `stack[k]`, where there is one. -/
def State.stackAt (s : State) (k : Nat) : Option Word := s.stack[k]?

/-- Push a return address: `stack[sp] <- v; sp <- sp + 1` (41_control_flow.md R103). -/
def State.push (s : State) (v : Word) : State :=
  { s with stack := s.stack.setIfInBounds s.sp.toNat v, sp := s.sp + 1 }

/-- The pop of a return: `sp <- sp - 1`; the entry keeps its value (10_state.md R27). -/
def State.drop (s : State) : State := { s with sp := s.sp - 1 }

/-! ## Input latches -/

/-- The least index of a set latch, if any (45_timers_input.md R223). -/
def State.leastKey (s : State) : Option RegIdx := (List.finRange 16).find? fun k => s.key[k]

/-! ## Framebuffer -/

/-- A row with no pixel lit. -/
def blankRow : Vector Bool Config.width := Vector.replicate Config.width false

/-- The grid with no pixel lit. -/
def Framebuffer.blank : Framebuffer := Vector.replicate Config.height blankRow

/-- `fb[row][col]`. -/
def Framebuffer.pixel (fb : Framebuffer) (row col : Nat) : Bool := (fb[row]?.getD blankRow)[col]?.getD false

/-- `fb[row][col] <- fb[row][col] ^ 1`. -/
def Framebuffer.flip (fb : Framebuffer) (row col : Nat) : Framebuffer :=
  fb.setIfInBounds row ((fb[row]?.getD blankRow).setIfInBounds col (!Framebuffer.pixel fb row col))

/-! ## The free draw -/

/-- `Draw8()`: the byte drawn next (00_scope.md R14; log entry 1). -/
def State.drawn (s : State) : Byte := Config.freeDraw s.draws

/-- One draw used up. -/
def State.countDraw (s : State) : State := { s with draws := s.draws + 1 }

/-! ## Taking a fault

There is no trap entry and no return from one (60_exceptions.md R244, R245): a fault is recorded in the
latch, and only `reset()` clears it (Machine/HostOps.lean). -/

/-- The code of a cause (60_exceptions.md R242). -/
def FaultCause.code : FaultCause → Nat
  | .fetchRange => 1
  | .memRange => 2
  | .stackOverflow => 3
  | .stackUnderflow => 4
  | .keyRange => 5

/-- `fault <- (cause, a, info)` on the state at the start of the step, where `pc = a`; nothing else
changes (60_exceptions.md R241). -/
def State.takeFault (s : State) (cause : FaultCause) (info : Nat) : State :=
  { s with fault := some ⟨cause, s.pc, info⟩ }

/-- `raise Fault(cause, info)` from within an instruction. Every instruction raises before its first
write (00_scope.md R13), so the state at the start of the step is the one at hand with the advance of
`pc` undone (log entry 8). -/
def raise (cause : FaultCause) (info : Nat) (s : State) : Answer :=
  .next (s.rewind.takeFault cause info)

/-- Whether the latch holds a fault, and so the core is halted (60_exceptions.md R241). -/
def State.halted (s : State) : Bool := s.fault.isSome

/-! ## Instruction fetch -/

/-- The lowest address of the fetch at `pc` that lies outside memory, if any (30_encoding.md R81). -/
def State.fetchOutside (s : State) : Option Nat :=
  let a := s.pc.toNat
  if Config.addrLimit ≤ a + 1 then some (if Config.addrLimit ≤ a then a else a + 1) else none

/-- The word at `pc` (30_encoding.md R80). -/
def State.fetchWord (s : State) : Word :=
  wordOfBytes (Memory.read s.mem s.pc.toNat) (Memory.read s.mem (s.pc.toNat + 1))

/-- The state that fetches `w` next and is otherwise `s`: the word at `pc`, big-endian. What would keep
the fetch from happening is set right: a latched fault is cleared, and a `pc` whose fetch lies outside
memory becomes `LOAD_ADDR` (log entry 7). -/
def State.withWordAtPc (s : State) (w : Word) : State :=
  let s := { s with fault := none }
  let s := if s.fetchOutside.isSome then s.jump (BitVec.ofNat 16 Config.loadAddr) else s
  s.setMem (Memory.writeBytes s.mem s.pc.toNat [firstByte w, secondByte w])

end Sys2Proof.Machine
end

