-- ==== Sys2Proof/Machine/Flags.lean ====
section
/-! DEFINITION. The flag computations. Every flag is computed from the values at the start of the
instruction and is the byte 0 or 1 (42_alu.md R130). -/

namespace Sys2Proof.Machine

/-- A flag as the byte written to VF: 0x00 or 0x01 (42_alu.md R130). -/
def flagByte (c : Bool) : Byte := if c then 1 else 0

/-- The carry of a sum that is not yet truncated (42_alu.md R137). -/
def carryFlag (p q : Byte) : Byte := flagByte (decide (255 < p.toNat + q.toNat))

/-- "No borrow" of `p - q` (42_alu.md R138, R140). -/
def noBorrowFlag (p q : Byte) : Byte := flagByte (decide (q.toNat ≤ p.toNat))

/-- The bit a right shift by one shifts out (42_alu.md R139). -/
def lowBitFlag (p : Byte) : Byte := flagByte (p.getLsbD 0)

/-- The bit a left shift by one shifts out (42_alu.md R141). -/
def highBitFlag (p : Byte) : Byte := flagByte (p.getLsbD 7)

end Sys2Proof.Machine
end

