-- ==== Sys2Proof/Machine/Operands.lean ====
section
/-! DEFINITION. Operands: immediates, the address of a transfer and its range check, the key index of a
register, the origin of a sprite. -/

namespace Sys2Proof.Machine

/-- `zext_16(nnn)` (30_encoding.md R73). -/
def addrOf (nnn : Addr12) : Word := nnn.setWidth 16

/-- `trunc_8` of a natural (00_scope.md R10). -/
def trunc8 (v : Nat) : Byte := BitVec.ofNat 8 v

/-- `trunc_16` of a natural (00_scope.md R10). -/
def trunc16 (v : Nat) : Word := BitVec.ofNat 16 v

/-- The address of the glyph of a register value, `FONT_BASE + 5 * v`, with no mask
(43_index_memory.md R173, decision D9). -/
def glyphAddr (v : Byte) : Word := trunc16 (Config.fontBase + Config.fontGlyphBytes * v.toNat)

/-- The lowest out-of-range address of a transfer of `len` bytes from `I`, which is
`max(I, ADDR_LIMIT)`; none when every address `I + k`, `k < len`, lies in memory. Addresses are naturals
and do not wrap (43_index_memory.md R170; 20_memory.md R53). -/
def State.transferOutside (s : State) (len : Nat) : Option Nat :=
  if 0 < len ∧ Config.addrLimit ≤ s.I.toNat + len - 1 then some (max s.I.toNat Config.addrLimit) else none

/-- A transfer of `len` bytes from `I`: the fault `MEM_RANGE` when an address lies outside memory, before
anything is written, else the next state `t` (43_index_memory.md R170). -/
def State.transfer (s : State) (len : Nat) (t : State) : Answer :=
  match s.transferOutside len with
  | some b => raise .memRange b s
  | none => .next t

/-- The latch that `V[x]` numbers: the fault `KEY_RANGE` when there is none, else the next state that
`t` gives for the latch (45_timers_input.md R220, R221). -/
def State.withKey (s : State) (x : RegIdx) (t : Bool → State) : Answer :=
  match s.key[(s.reg x).toNat]? with
  | none => raise .keyRange (s.reg x).toNat s
  | some pressed => .next (t pressed)

/-- The registers `V[0]` to `V[x]` in ascending order (43_index_memory.md R175). -/
def State.regsUpTo (s : State) (x : RegIdx) : List Byte := s.V.toList.take (x.val + 1)

/-- Registers `V[0]` to `V[x]` loaded from `I` upward, `V[i]` from `I + i`; the others keep their values
(43_index_memory.md R176). -/
def State.loadRegs (s : State) (x : RegIdx) : State :=
  { s with V := Vector.ofFn fun i : Fin 16 =>
      if i ≤ x then Memory.read s.mem (s.I.toNat + i.val) else s.V[i] }

/-- The three decimal digits of a byte, hundreds first (43_index_memory.md R174). -/
def bcdDigits (v : Byte) : List Byte :=
  [trunc8 (v.toNat / 100), trunc8 (v.toNat / 10 % 10), trunc8 (v.toNat % 10)]

/-- The column of a sprite's origin, wrapped (44_display.md R201). -/
def originCol (v : Byte) : Nat := v.toNat % Config.width

/-- The row of a sprite's origin, wrapped (44_display.md R201). -/
def originRow (v : Byte) : Nat := v.toNat % Config.height

end Sys2Proof.Machine
end

