-- ==== Sys2Proof/Machine/Alu.lean ====
section
/-! DEFINITION. Loads, arithmetic and logic on registers, and the random byte (42_alu.md). None faults and
none writes `pc` beyond the advance. -/

namespace Sys2Proof.Machine

/-- R131. -/
def execLdImm (x : RegIdx) (kk : Byte) (s : State) : Answer := .next (s.setReg x kk)

/-- R132: no flag. -/
def execAddImm (x : RegIdx) (kk : Byte) (s : State) : Answer :=
  .next (s.setReg x (trunc8 ((s.reg x).toNat + kk.toNat)))

/-- R133: VF untouched (decision D1). -/
def execLdReg (x y : RegIdx) (s : State) : Answer := .next (s.setReg x (s.reg y))

/-- R134: VF untouched (decision D1). -/
def execOr (x y : RegIdx) (s : State) : Answer := .next (s.setReg x (s.reg x ||| s.reg y))

/-- R135: VF untouched (decision D1). -/
def execAnd (x y : RegIdx) (s : State) : Answer := .next (s.setReg x (s.reg x &&& s.reg y))

/-- R136: VF untouched (decision D1). -/
def execXor (x y : RegIdx) (s : State) : Answer := .next (s.setReg x (s.reg x ^^^ s.reg y))

/-- R137. -/
def execAddReg (x y : RegIdx) (s : State) : Answer :=
  .next (s.setRegAndFlag x (trunc8 ((s.reg x).toNat + (s.reg y).toNat)) (carryFlag (s.reg x) (s.reg y)))

/-- R138. -/
def execSub (x y : RegIdx) (s : State) : Answer :=
  .next (s.setRegAndFlag x (trunc8 ((s.reg x).toNat + 256 - (s.reg y).toNat))
    (noBorrowFlag (s.reg x) (s.reg y)))

/-- R139: `V[x]` itself is shifted, `y` is ignored. -/
def execShr (x _y : RegIdx) (s : State) : Answer :=
  .next (s.setRegAndFlag x (trunc8 ((s.reg x).toNat >>> 1)) (lowBitFlag (s.reg x)))

/-- R140. -/
def execSubn (x y : RegIdx) (s : State) : Answer :=
  .next (s.setRegAndFlag x (trunc8 ((s.reg y).toNat + 256 - (s.reg x).toNat))
    (noBorrowFlag (s.reg y) (s.reg x)))

/-- R141: `V[x]` itself is shifted, `y` is ignored. -/
def execShl (x _y : RegIdx) (s : State) : Answer :=
  .next (s.setRegAndFlag x (trunc8 ((s.reg x).toNat <<< 1)) (highBitFlag (s.reg x)))

/-- R142: the draw is a free value (log entry 1). -/
def execRnd (x : RegIdx) (kk : Byte) (s : State) : Answer :=
  .next (s.countDraw.setReg x (s.drawn &&& kk))

end Sys2Proof.Machine
end

