-- ==== Sys2Proof/Machine/Control.lean ====
section
/-! DEFINITION. Control transfer (41_control_flow.md) and the unmapped word (30_encoding.md R88). In every
meaning `s` is the state after the advance: `s.pc` is the instruction's address plus 2 (00_scope.md
R15). -/

namespace Sys2Proof.Machine

/-- R101. At `sp` above 16, which no run has (10_state.md R26), there is no entry to pop and the model
stops by name (log entry 4). -/
def execRet (s : State) : Answer :=
  if s.sp = 0 then raise .stackUnderflow 0 s
  else
    match s.stackAt (s.sp.toNat - 1) with
    | some target => .next (s.drop.jump target)
    | none => .fault .stackPointerOutOfRange

/-- R102. -/
def execJp (nnn : Addr12) (s : State) : Answer := .next (s.jump (addrOf nnn))

/-- R103: the address pushed is the one after the call, `s.pc`. -/
def execCall (nnn : Addr12) (s : State) : Answer :=
  if Config.stackDepth ≤ s.sp.toNat then raise .stackOverflow s.sp.toNat s
  else .next ((s.push s.pc).jump (addrOf nnn))

/-- R104. -/
def execSeImm (x : RegIdx) (kk : Byte) (s : State) : Answer := .next (s.skipIf (s.reg x == kk))

/-- R105. -/
def execSneImm (x : RegIdx) (kk : Byte) (s : State) : Answer := .next (s.skipIf (s.reg x != kk))

/-- R106. -/
def execSeReg (x y : RegIdx) (s : State) : Answer := .next (s.skipIf (s.reg x == s.reg y))

/-- R107. -/
def execSneReg (x y : RegIdx) (s : State) : Answer := .next (s.skipIf (s.reg x != s.reg y))

/-- R108: the sum is not truncated to 12 bits (decision D5). -/
def execJpV0 (nnn : Addr12) (s : State) : Answer :=
  .next (s.jump (trunc16 (nnn.toNat + (s.reg 0).toNat)))

/-- 30_encoding.md R88: nothing but the advance. -/
def execNop (_word : Word) (s : State) : Answer := .next s

end Sys2Proof.Machine
end

