-- ==== Sys2Proof/Machine/Display.lean ====
section
/-! DEFINITION. Clear-screen and the sprite compositor (44_display.md). -/

namespace Sys2Proof.Machine

/-- R200. -/
def execCls (s : State) : Answer := .next (s.touchFb Framebuffer.blank)

/-- Bit `c` of a sprite row from the left: the MSB is the leftmost pixel (R201). -/
def spriteBit (row : Byte) (c : Nat) : Bool := row.getLsbD (7 - c)

/-- What drawing has done so far: the pixels, and whether a lit pixel was turned off. -/
abbrev Canvas := Framebuffer × Bool

/-- One pixel of a sprite at row `py` and column `px`: clipped outside the grid, and left alone by a 0 bit;
a 1 bit flips it, and a lit pixel flipped is a collision (R201, decision D3). -/
def drawPixel (py px : Nat) (bit : Bool) (canvas : Canvas) : Canvas :=
  if py < Config.height ∧ px < Config.width ∧ bit then
    (Framebuffer.flip canvas.1 py px, canvas.2 || Framebuffer.pixel canvas.1 py px)
  else canvas

/-- One sprite row: eight pixels from column `x0` (R201). -/
def drawRow (py x0 : Nat) (row : Byte) (canvas : Canvas) : Canvas :=
  (List.range 8).foldl (fun acc c => drawPixel py (x0 + c) (spriteBit row c) acc) canvas

/-- The `n` rows of the sprite at address `base`, with its origin at column `x0` of row `y0` (R201). -/
def drawSprite (mem : Memory) (base x0 y0 n : Nat) (fb : Framebuffer) : Canvas :=
  (List.range n).foldl (fun acc r => drawRow (y0 + r) x0 (Memory.read mem (base + r)) acc) (fb, false)

/-- R201: all `n` rows are range-checked, drawn or not (decision D16); the coordinates are read before VF
is written; VF is the last write. -/
def execDrw (x y : RegIdx) (n : Fin 16) (s : State) : Answer :=
  let canvas :=
    drawSprite s.mem s.I.toNat (originCol (s.reg x)) (originRow (s.reg y)) n.val s.fb
  s.transfer n.val ((s.touchFb canvas.1).setReg Config.flagReg (flagByte canvas.2))

end Sys2Proof.Machine
end

