-- ==== Sys2Proof/Machine/Index.lean ====
section
/-! DEFINITION. The index register and the memory transfers (43_index_memory.md). No transfer changes `I`
(decision D2). -/

namespace Sys2Proof.Machine

/-- R171. -/
def execLdI (nnn : Addr12) (s : State) : Answer := .next (s.setI (addrOf nnn))

/-- R172: modulo 2^16, no flag. -/
def execAddI (x : RegIdx) (s : State) : Answer :=
  .next (s.setI (trunc16 (s.I.toNat + (s.reg x).toNat)))

/-- R173. -/
def execLdF (x : RegIdx) (s : State) : Answer := .next (s.setI (glyphAddr (s.reg x)))

/-- R174. -/
def execLdB (x : RegIdx) (s : State) : Answer :=
  s.transfer 3 (s.setMem (Memory.writeBytes s.mem s.I.toNat (bcdDigits (s.reg x))))

/-- R175. -/
def execLdMemVx (x : RegIdx) (s : State) : Answer :=
  s.transfer (x.val + 1) (s.setMem (Memory.writeBytes s.mem s.I.toNat (s.regsUpTo x)))

/-- R176. -/
def execLdVxMem (x : RegIdx) (s : State) : Answer := s.transfer (x.val + 1) (s.loadRegs x)

end Sys2Proof.Machine
end

