-- ==== Sys2Proof/Machine/Input.lean ====
section
/-! DEFINITION. Key input and the timer instructions (45_timers_input.md). The latches are only read
(decision D15). -/

namespace Sys2Proof.Machine

/-- R220. -/
def execSkp (x : RegIdx) (s : State) : Answer := s.withKey x fun pressed => s.skipIf pressed

/-- R221. -/
def execSknp (x : RegIdx) (s : State) : Answer := s.withKey x fun pressed => s.skipIf (!pressed)

/-- R222. -/
def execLdVxDt (x : RegIdx) (s : State) : Answer := .next (s.setReg x s.DT)

/-- R223: with no latch set, `pc` goes back to this same instruction. -/
def execLdVxK (x : RegIdx) (s : State) : Answer :=
  match s.leastKey with
  | some k => .next (s.setReg x (trunc8 k.val))
  | none => .next s.rewind

/-- R224. -/
def execLdDtVx (x : RegIdx) (s : State) : Answer := .next (s.setDT (s.reg x))

/-- R225. -/
def execLdStVx (x : RegIdx) (s : State) : Answer := .next (s.setST (s.reg x))

end Sys2Proof.Machine
end

