-- ==== Sys2Proof/Machine/Step.lean ====
section
/-! DEFINITION. One step of the cycle driver (30_encoding.md R89), and the placing of one instruction where
it fetches. -/

namespace Sys2Proof.Machine

/-- One call of `step()` (30_encoding.md R89): nothing on a halted core, else fetch, advance, decode,
execute; a fetch outside memory takes the fault `FETCH_RANGE` with `pc` not advanced (R81). The step never
ticks the timers (decision D7). -/
def step (s : State) : Host.Outcome State Fault Refusal :=
  if s.halted then .next s
  else
    match s.fetchOutside with
    | some b => .next (s.takeFault .fetchRange b)
    | none => exec (decode s.fetchWord) s.advance

/-- The state whose very next step runs the word `w` of a row of spec/opcode_table.json (log entry 7). -/
def State.withFetchWord (s : State) (nbits w : Nat) : State :=
  s.withWordAtPc (BitVec.ofNat 16 (w % 2 ^ nbits))

end Sys2Proof.Machine
end

