-- ==== Sys2Proof/Machine/HostOps.lean ====
section
/-! DEFINITION. What the host can do to the core between two steps (60_exceptions.md R250 to R259;
70_reset_and_hazards.md R280 to R284), and every interleaving of it. -/

namespace Sys2Proof.Machine

/-! ## The timer tick unit -/

/-- One tick of a timer: down by one, and 0 stays 0 (60_exceptions.md R250, R252). -/
def tickTimer (t : Byte) : Byte := if t = 0 then 0 else t - 1

/-- `tick()` (60_exceptions.md R250): the same whether or not the core is halted. -/
def tick (s : State) : State := (s.setDT (tickTimer s.DT)).setST (tickTimer s.ST)

/-! ## The presentation layer -/

/-- The output `tone` (60_exceptions.md R255; 10_state.md R29). -/
def State.tone (s : State) : Bool := s.ST != 0

/-- A key write: the host sets one latch (60_exceptions.md R256). -/
def writeKey (k : RegIdx) (pressed : Bool) (s : State) : State := { s with key := s.key.set k pressed }

/-- What the host reads when it consumes a frame: the pixels and `redraw` (60_exceptions.md R257). -/
def State.frame (s : State) : Framebuffer × Bool := (s.fb, s.redraw)

/-- Consuming a frame clears `redraw` and nothing else (60_exceptions.md R257). -/
def consumeFrame (s : State) : State := { s with redraw := false }

/-- The inspection snapshot: all of the state; it changes none (60_exceptions.md R258). The model's own
counter of draws stands in it too. -/
def State.inspect (s : State) : State := s

/-! ## Reset and program load -/

/-- `reset()` (70_reset_and_hazards.md R280): every part of the state the spec names at its reset value.
The model's own counter goes on, so that no draw is repeated after a reset (log entry 2). -/
def reset (s : State) : State := { State.reset with draws := s.draws }

/-- What `loadProgram` answers. -/
inductive LoadResult where
  /-- The image is loaded, and the state is `s`. -/
  | ok (s : State)
  /-- The image does not fit; the state is not touched. -/
  | imageTooLarge
  deriving DecidableEq, Repr

/-- `loadProgram(bytes)` (70_reset_and_hazards.md R281): the size check, then the reset, then the copy. -/
def loadProgram (bytes : List Byte) (s : State) : LoadResult :=
  if Config.maxImage < bytes.length then .imageTooLarge
  else
    let s := reset s
    .ok (s.setMem (Memory.writeBytes s.mem Config.loadAddr bytes))

/-! ## Interleavings -/

/-- The operations of the host's table (60_exceptions.md R259). -/
inductive HostEvent where
  /-- `step()`. -/
  | step
  /-- `tick()`. -/
  | tick
  /-- Key write. -/
  | keyWrite (k : RegIdx) (pressed : Bool)
  /-- Frame consume. -/
  | frameConsume
  /-- Tone read. -/
  | toneRead
  /-- Inspect. -/
  | inspect
  /-- `loadProgram(bytes)`. -/
  | load (bytes : List Byte)
  deriving DecidableEq, Repr

/-- What an operation does to the state (60_exceptions.md R259). A load that fails leaves the state as it
was (70_reset_and_hazards.md R281). -/
def hostEvent : HostEvent → State → Answer
  | .step, s => step s
  | .tick, s => .next (tick s)
  | .keyWrite k pressed, s => .next (writeKey k pressed s)
  | .frameConsume, s => .next (consumeFrame s)
  | .toneRead, s => .next s
  | .inspect, s => .next s
  | .load bytes, s =>
    match loadProgram bytes s with
    | .ok t => .next t
    | .imageTooLarge => .next s

/-- A finite sequence of operations, in order; any such sequence is a possible run
(60_exceptions.md R251, R259). -/
def runEvents : List HostEvent → State → Answer
  | [], s => .next s
  | e :: es, s =>
    match hostEvent e s with
    | .next t => runEvents es t
    | .fault r => .fault r
    | .refused r => .refused r

end Sys2Proof.Machine
end

