-- ==== Sys2Proof/Safety.lean ====
section
/-! DEFINITION. The terms in which claims are stated: which parts of the state a step may change, the
invariant of every run, and when the spec calls for a fault. -/

namespace Sys2Proof.Machine

/-! ## Frames -/

/-- The parts of the state. -/
inductive StatePart where
  | V | I | pc | sp | stack | DT | ST | key | fb | redraw | fault | mem | draws
  deriving DecidableEq, Repr

/-- A part has the same contents in both states. Memory is compared by reading every address. -/
def SamePart (s t : State) : StatePart → Prop
  | .V => ∀ r : RegIdx, t.reg r = s.reg r
  | .I => t.I = s.I
  | .pc => t.pc = s.pc
  | .sp => t.sp = s.sp
  | .stack => t.stack = s.stack
  | .DT => t.DT = s.DT
  | .ST => t.ST = s.ST
  | .key => t.key = s.key
  | .fb => t.fb = s.fb
  | .redraw => t.redraw = s.redraw
  | .fault => t.fault = s.fault
  | .mem => ∀ a : Nat, Memory.read t.mem a = Memory.read s.mem a
  | .draws => t.draws = s.draws

/-- Every part not listed is unchanged from `s` to `t`. -/
def FrameExcept (parts : List StatePart) (s t : State) : Prop :=
  ∀ p : StatePart, p ∉ parts → SamePart s t p

/-- The registers not listed are unchanged from `s` to `t`. -/
def RegsExcept (rs : List RegIdx) (s t : State) : Prop := ∀ r : RegIdx, r ∉ rs → t.reg r = s.reg r

/-- The bytes of memory outside the `len` bytes from `base` are unchanged from `s` to `t`. -/
def MemExcept (base len : Nat) (s t : State) : Prop :=
  ∀ a : Nat, (a < base ∨ base + len ≤ a) → Memory.read t.mem a = Memory.read s.mem a

/-- The state that a fault raised by an instruction leaves, seen from the state after the advance: `pc` is
back at the instruction, the latch holds the fault, and nothing else has changed (60_exceptions.md R241,
R244). -/
def TakesFault (cause : FaultCause) (info : Nat) (s t : State) : Prop :=
  t.fault = some ⟨cause, s.pc - 2, info⟩ ∧ t.pc = s.pc - 2 ∧ FrameExcept [.fault, .pc] s t

/-! ## Which parts the spec lets an instruction write -/

/-- The parts an instruction writes when it takes no fault: 10_state.md R22 to R32 part by part, and the
pseudocode of the instruction. -/
def partsWritten : Instr → List StatePart
  | .cls => [.fb, .redraw]
  | .ret => [.pc, .sp]
  | .jp _ => [.pc]
  | .call _ => [.pc, .sp, .stack]
  | .seImm _ _ | .sneImm _ _ | .seReg _ _ | .sneReg _ _ => [.pc]
  | .ldImm _ _ | .addImm _ _ => [.V]
  | .ldReg _ _ | .or _ _ | .and _ _ | .xor _ _ => [.V]
  | .addReg _ _ | .sub _ _ | .shr _ _ | .subn _ _ | .shl _ _ => [.V]
  | .ldI _ => [.I]
  | .jpV0 _ => [.pc]
  | .rnd _ _ => [.V, .draws]
  | .drw _ _ _ => [.V, .fb, .redraw]
  | .skp _ | .sknp _ => [.pc]
  | .ldVxDt _ => [.V]
  | .ldVxK _ => [.V, .pc]
  | .ldDtVx _ => [.DT]
  | .ldStVx _ => [.ST]
  | .addI _ | .ldF _ => [.I]
  | .ldB _ | .ldMemVx _ => [.mem]
  | .ldVxMem _ => [.V]
  | .nop _ => []

/-- The general registers an instruction may write: its destination `V[x]`, VF where it writes a flag
(10_state.md R22), and `V[0]` to `V[x]` for Fx65 (43_index_memory.md R176). -/
def regsWritten : Instr → List RegIdx
  | .ldImm x _ | .addImm x _ | .rnd x _ => [x]
  | .ldReg x _ | .or x _ | .and x _ | .xor x _ => [x]
  | .addReg x _ | .sub x _ | .shr x _ | .subn x _ | .shl x _ => [x, Config.flagReg]
  | .drw _ _ _ => [Config.flagReg]
  | .ldVxDt x | .ldVxK x => [x]
  | .ldVxMem x => (List.finRange 16).filter fun r => r ≤ x
  | .cls | .ret | .jp _ | .call _ | .ldI _ | .jpV0 _ => []
  | .seImm _ _ | .sneImm _ _ | .seReg _ _ | .sneReg _ _ => []
  | .skp _ | .sknp _ | .ldDtVx _ | .ldStVx _ => []
  | .addI _ | .ldF _ | .ldB _ | .ldMemVx _ => []
  | .nop _ => []

/-! ## What a sprite covers -/

/-- Whether a sprite of `n` rows at address `base`, with its origin at column `x0` of row `y0`, has a 1 bit
over the pixel at `row` and `col`, clipped at the right and bottom edges (44_display.md R201). -/
def spriteCovers (mem : Memory) (base x0 y0 n row col : Nat) : Bool :=
  decide (y0 ≤ row ∧ row < y0 + n ∧ row < 32 ∧ x0 ≤ col ∧ col < x0 + 8 ∧ col < 64) &&
    (Memory.read mem (base + (row - y0))).getLsbD (7 - (col - x0))

/-! ## When a step faults -/

/-- The fault the next step owes, from the conditions of 60_exceptions.md R242 alone: none for every other
step. `s` is the state at the start of the step. -/
def faultDue (s : State) : Option (FaultCause × Nat) :=
  if 0xFFE < s.pc.toNat then some (.fetchRange, max s.pc.toNat 0x1000)
  else
    match decode s.fetchWord with
    | .call _ => if 16 ≤ s.sp.toNat then some (.stackOverflow, s.sp.toNat) else none
    | .ret => if s.sp = 0 then some (.stackUnderflow, 0) else none
    | .skp x | .sknp x =>
      if 16 ≤ (s.reg x).toNat then some (.keyRange, (s.reg x).toNat) else none
    | .ldB _ => if 0x1000 < s.I.toNat + 3 then some (.memRange, max s.I.toNat 0x1000) else none
    | .ldMemVx x | .ldVxMem x =>
      if 0x1000 < s.I.toNat + (x.val + 1) then some (.memRange, max s.I.toNat 0x1000) else none
    | .drw _ _ n =>
      if 0 < n.val ∧ 0x1000 < s.I.toNat + n.val then some (.memRange, max s.I.toNat 0x1000) else none
    | .cls | .jp _ | .seImm _ _ | .sneImm _ _ | .seReg _ _ | .sneReg _ _ => none
    | .ldImm _ _ | .addImm _ _ | .ldReg _ _ | .or _ _ | .and _ _ | .xor _ _ => none
    | .addReg _ _ | .sub _ _ | .shr _ _ | .subn _ _ | .shl _ _ | .rnd _ _ => none
    | .ldI _ | .jpV0 _ | .ldVxDt _ | .ldVxK _ | .ldDtVx _ | .ldStVx _ => none
    | .addI _ | .ldF _ | .nop _ => none

/-! ## The invariant of every run -/

/-- The latch tells the truth about the state it halted: `fpc` is `pc`, and the cause and the info are
those of 60_exceptions.md R242 in this state. -/
def FaultRecord.TrueOf (f : FaultRecord) (s : State) : Prop :=
  f.fpc = s.pc ∧
  match f.cause with
  | .fetchRange => 0xFFE < s.pc.toNat ∧ f.info = max s.pc.toNat 0x1000
  | .memRange => f.info = max s.I.toNat 0x1000
  | .stackOverflow => s.sp.toNat = 16 ∧ f.info = 16
  | .stackUnderflow => s.sp = 0 ∧ f.info = 0
  | .keyRange => 16 ≤ f.info ∧ ∃ x : RegIdx, f.info = (s.reg x).toNat

/-- What holds in every state that any run reaches. -/
structure State.Inv (s : State) : Prop where
  /-- At most 16 return addresses are held (10_state.md R26). -/
  sp_le : s.sp.toNat ≤ 16
  /-- No `pc` passes 0xFFF + 0xFF, the furthest target of Bnnn (41_control_flow.md R108). -/
  pc_le : s.pc.toNat ≤ 0x10FE
  /-- Every return address is one past an instruction in memory (91_not_in_source.md, stack entries). -/
  stack_le : ∀ k : Fin 16, (s.stack[k]).toNat ≤ 0x1000
  /-- Memory keeps its canonical form. -/
  mem_wf : Memory.wf s.mem = true
  /-- A latched fault is one of R242's, with what R242 records. -/
  latch_true : ∀ f : FaultRecord, s.fault = some f → f.TrueOf s

end Sys2Proof.Machine
end

