-- ==== Sys2Proof/Certificates/Slice0/Obligations.lean ====
section
/-! DEFINITION. The statements for the provers. Each docstring names the rule of spec/ it formalises, the
decision of 92_eei_decisions.md it rests on, and the log entry of any clause that is the model's own. In
every statement about `exec`, `s` is the state after the advance: `s.pc` is the instruction's address plus
2 (00_scope.md R15). -/

open Sys2Proof Sys2Proof.Machine

/-! ## Encoding -/

/-- Every well-formed instruction is the decoding of its own word (30_encoding.md R90, R93; the encoder's
choice of a canonical word is log entry 6). -/
def Obligations.DecodeOfEncodeIsTheInstruction : Prop :=
  ∀ i : Instr, i.WellFormed = true → decode (encode i) = i

/-- The decoder never makes an instruction that has no encoding, and what it makes of a word is what it makes
of that instruction's canonical word (30_encoding.md R92; log entry 6 for `nop`). -/
def Obligations.EveryWordDecodesToAWellFormedInstruction : Prop :=
  ∀ w : Word, (decode w).WellFormed = true ∧ decode (encode (decode w)) = decode w

/-- "Every 16-bit word matches exactly one of the 81 rows, and that row is the one rule R93 decodes it to"
(30_encoding.md R92, which the spec derives from R83 to R88). -/
def Obligations.EveryWordMatchesExactlyOneTableRow : Prop :=
  opcodeTable.length = 81 ∧
  ∀ w : Word, ∃ r : OpcodeRow,
    opcodeTable.filter (fun q => q.claims w) = [r] ∧ r.mnemonic = (decode w).mnemonic

/-- The bits that 30_encoding.md R84, R86 and R92 call ignored change nothing: `w[11:4]` in family 0,
`w[3:0]` in families 5 and 9, `w[7:4]` in family E, and `y` in 8xy6 and 8xyE. -/
def Obligations.IgnoredBitsDoNotMatter : Prop :=
  (∀ w : Word, w &&& 0xF00F = 0x0000 → decode w = .cls) ∧
  (∀ w : Word, w &&& 0xF00F = 0x000E → decode w = .ret) ∧
  (∀ (x y : RegIdx) (n : Fin 16), decode (wordXYN 0x5 x y n) = .seReg x y) ∧
  (∀ (x y : RegIdx) (n : Fin 16), decode (wordXYN 0x9 x y n) = .sneReg x y) ∧
  (∀ x h : RegIdx, decode (wordXYN 0xE x h 0xE) = .skp x) ∧
  (∀ x h : RegIdx, decode (wordXYN 0xE x h 0x1) = .sknp x) ∧
  (∀ (x y z : RegIdx) (s : State), exec (.shr x y) s = exec (.shr x z) s) ∧
  (∀ (x y z : RegIdx) (s : State), exec (.shl x y) s = exec (.shl x z) s)

/-- Words that the spec writes out, with the instruction each stands for (95_test_vectors.md, the tables of
section 2 and the programs of section 3). -/
def Obligations.WordsDecodeAsTheSpecWritesThem : Prop :=
  decode 0x00E0 = .cls ∧ decode 0x0FFE = .ret ∧ decode 0x1ABC = .jp 0xABC ∧ decode 0x2456 = .call 0x456 ∧
  decode 0x3A42 = .seImm 0xA 0x42 ∧ decode 0x5121 = .seReg 1 2 ∧ decode 0x6A5C = .ldImm 0xA 0x5C ∧
  decode 0x8AB4 = .addReg 0xA 0xB ∧ decode 0x8AB8 = .nop 0x8AB8 ∧ decode 0xA23C = .ldI 0x23C ∧
  decode 0xD125 = .drw 1 2 5 ∧ decode 0xE111 = .sknp 1 ∧ decode 0xF255 = .ldMemVx 2 ∧
  decode 0xF1FF = .nop 0xF1FF

/-! ## The step -/

/-- A running core whose `pc` is at most 0xFFE fetches the big-endian word at `pc` (30_encoding.md R80),
advances `pc` by 2 (R82) and executes the word's instruction on the state so advanced (R89). -/
def Obligations.StepRunsTheDecodedInstruction : Prop :=
  ∀ s : State, s.fault = none → s.pc.toNat ≤ 0xFFE →
    step s = exec
      (decode (BitVec.ofNat 16
        ((Memory.read s.mem s.pc.toNat).toNat * 256 + (Memory.read s.mem (s.pc.toNat + 1)).toNat)))
      { s with pc := s.pc + 2 }

/-- With `pc` above 0xFFE the step latches `FETCH_RANGE` with the lowest fetch address outside memory; `pc`
is not advanced and nothing else changes (30_encoding.md R81, decision D5). -/
def Obligations.FetchOutsideMemoryIsLatched : Prop :=
  ∀ s : State, s.fault = none → 0xFFE < s.pc.toNat →
    step s = .next { s with fault := some ⟨.fetchRange, s.pc, max s.pc.toNat 0x1000⟩ }

/-- "While fault != none, every later step() returns without changing any state" (60_exceptions.md R241,
decision D11). -/
def Obligations.HaltedCoreDoesNotMove : Prop :=
  ∀ (s : State) (f : FaultRecord), s.fault = some f → step s = .next s

/-- A fault is precise: a step that latches one leaves every other part of the state as it was, and the
latch names the instruction's address, which is still `pc` (60_exceptions.md R241, R244, decision D11). -/
def Obligations.FaultingStepChangesTheLatchAlone : Prop :=
  ∀ (s t : State) (f : FaultRecord), s.fault = none → step s = .next t → t.fault = some f →
    t = { s with fault := some f } ∧ f.fpc = s.pc

/-- From a running core with at most 16 return addresses held, a step always goes on to a next state, and it
latches a fault exactly when one of the five conditions of 60_exceptions.md R242 holds, with the cause, the
address and the info R242 records (decisions D4, D5, D6, D11, D16). -/
def Obligations.StepFaultsExactlyWhenDue : Prop :=
  ∀ s : State, s.fault = none → s.sp.toNat ≤ 16 →
    ∃ t : State, step s = .next t ∧
      t.fault = (faultDue s).map fun due => ⟨due.1, s.pc, due.2⟩

/-- The invariant of `State.Inv` holds after construction (70_reset_and_hazards.md R280, R284). -/
def Obligations.ResetMeetsTheInvariant : Prop := State.reset.Inv

/-- Every step keeps the invariant: at most 16 return addresses, `pc` and the return addresses within
their bounds, memory canonical, and a latched fault that tells the truth (10_state.md R26, R33;
60_exceptions.md R242). -/
def Obligations.StepKeepsTheInvariant : Prop :=
  ∀ s t : State, s.Inv → step s = .next t → t.Inv

/-- Any finite interleaving of steps, ticks, key writes, frame consumptions, reads and program loads runs to a
next state, and keeps the invariant (60_exceptions.md R251, R259, decisions D18, D22). -/
def Obligations.EveryInterleavingKeepsTheInvariant : Prop :=
  ∀ (es : List HostEvent) (s : State), s.Inv → ∃ t : State, runEvents es s = .next t ∧ t.Inv

/-- Every instruction that completes writes only the parts of the state its rule names; one that faults
changes the latch and takes `pc` back, and nothing else. So the latches are never written, `DT` and `ST` only
by Fx15 and Fx18, `fb` and `redraw` only by CLS and DRW, memory only by Fx33 and Fx55, `I` only by Annn, Fx1E
and Fx29, `sp` only by CALL and RET (10_state.md R23 to R32; `draws` is the model's own, log entry 1). -/
def Obligations.InstructionsWriteOnlyTheirParts : Prop :=
  ∀ (i : Instr) (s t : State), exec i s = .next t →
    FrameExcept (partsWritten i) s t ∨ ∃ (cause : FaultCause) (info : Nat), TakesFault cause info s t

/-- Every instruction leaves each general register alone but its destination, VF where 10_state.md R22 says it
writes a flag, and `V[0]` to `V[x]` for Fx65. -/
def Obligations.InstructionsWriteOnlyTheirRegisters : Prop :=
  ∀ (i : Instr) (s t : State), exec i s = .next t → RegsExcept (regsWritten i) s t

/-- No instruction reads `ST` (10_state.md R29) or `redraw` (R32): two states that differ in nothing else step
to states that differ in nothing else. Both steps take the same random byte if Cxkk is at `pc`: the two states
agree in `draws`, and that equal counts give equal bytes is the model's own choice (log entry 1), not the
spec's, which relates no two draws (42_alu.md, Cxkk, decision D12). -/
def Obligations.SoundTimerAndRedrawAreNotRead : Prop :=
  ∀ (s t : State) (sound : Byte) (signal : Bool), step s = .next t →
    ∃ u : State, step { s with ST := sound, redraw := signal } = .next u ∧
      FrameExcept [.ST, .redraw] t u

/-- Only Ex9E, ExA1 and Fx0A read the input latches (10_state.md R30): with any other instruction at `pc`, two
states that differ in the latches alone step to states that differ in the latches alone. Cxkk is among those
others, and both steps then take the same random byte: the two states agree in `draws`, and that equal counts
give equal bytes is the model's own choice (log entry 1), not the spec's, which relates no two draws
(42_alu.md, Cxkk, decision D12). -/
def Obligations.OtherInstructionsDoNotReadTheLatches : Prop :=
  ∀ (s t : State) (latches : Vector Bool 16),
    (decode s.fetchWord).mnemonic ∉ [Mnemonic.SKP, .SKNP, .LD_VX_K] → step s = .next t →
      ∃ u : State, step { s with key := latches } = .next u ∧ FrameExcept [.key] t u

/-- `pc` stays even, and every return address too, as long as each jump, call or offset jump executed has an
even target (10_state.md R25, decision D13; 90_conflicts.md C1). -/
def Obligations.EvenTargetsKeepPcEven : Prop :=
  ∀ s t : State, s.pc.toNat % 2 = 0 → (∀ k : Fin 16, (s.stack[k]).toNat % 2 = 0) →
    (∀ nnn : Addr12, decode s.fetchWord = .jp nnn ∨ decode s.fetchWord = .call nnn →
      nnn.toNat % 2 = 0) →
    (∀ nnn : Addr12, decode s.fetchWord = .jpV0 nnn → (nnn.toNat + (s.reg 0).toNat) % 2 = 0) →
    step s = .next t →
      t.pc.toNat % 2 = 0 ∧ ∀ k : Fin 16, (t.stack[k]).toNat % 2 = 0

/-- With no key down, a step at Fx0A leaves the state exactly as it is (45_timers_input.md R223;
70_reset_and_hazards.md R289). -/
def Obligations.WaitKeySpinLeavesTheState : Prop :=
  ∀ (s : State) (x : RegIdx), s.fault = none → s.pc.toNat ≤ 0xFFE →
    decode s.fetchWord = .ldVxK x → (∀ k : Fin 16, s.key[k] = false) → step s = .next s

/-- A word that Fx55 stores over the next instruction is the one the next step executes
(20_memory.md R60; 70_reset_and_hazards.md R288). -/
def Obligations.StoredCodeIsFetchedNext : Prop :=
  ∀ (s : State) (x k : RegIdx), Memory.wf s.mem = true → s.fault = none →
    s.I.toNat + x.val < 0x1000 → k.val + 1 ≤ x.val → s.pc.toNat = s.I.toNat + k.val →
    ∃ t : State, exec (.ldMemVx x) s = .next t ∧
      step t = exec (decode (wordOfBytes (s.reg k) (s.reg (k + 1)))) { t with pc := s.pc + 2 }

/-! ## Control transfer and NOP -/

/-- R102: `pc <- zext_16(nnn)` and nothing else; after a jump to 0xFFF the next fetch faults. -/
def Obligations.JumpSetsPc : Prop :=
  ∀ (nnn : Addr12) (s : State), decode (wordNNN 0x1 nnn) = .jp nnn ∧
    ∃ t : State, exec (.jp nnn) s = .next t ∧
    t.pc.toNat = nnn.toNat ∧ FrameExcept [.pc] s t ∧
    (nnn = 0xFFF → s.fault = none →
      ∃ u : State, step t = .next u ∧ u.fault = some ⟨.fetchRange, 0xFFF, 0x1000⟩)

/-- 41_control_flow.md, JP V0: `pc <- nnn + V0`, not truncated to 12 bits (decision D5), with V0 whatever the
field `x` is; nothing else changes. -/
def Obligations.OffsetJumpAddsV0 : Prop :=
  ∀ (nnn : Addr12) (s : State), ∃ t : State, exec (.jpV0 nnn) s = .next t ∧
    t.pc.toNat = nnn.toNat + (s.reg 0).toNat ∧ FrameExcept [.pc] s t

/-- 41_control_flow.md, CALL: with a free entry the return address, the address after the call, is pushed and
`pc` is `nnn`; with 16 entries held it faults (decision D4). -/
def Obligations.CallPushesTheReturnAddress : Prop :=
  ∀ (nnn : Addr12) (s : State),
    (s.sp.toNat < 16 →
      ∃ t : State, exec (.call nnn) s = .next t ∧
        t.stackAt s.sp.toNat = some s.pc ∧
        (∀ k : Nat, k ≠ s.sp.toNat → t.stackAt k = s.stackAt k) ∧
        t.sp.toNat = s.sp.toNat + 1 ∧ t.pc.toNat = nnn.toNat ∧
        FrameExcept [.stack, .sp, .pc] s t) ∧
    (16 ≤ s.sp.toNat →
      ∃ t : State, exec (.call nnn) s = .next t ∧ TakesFault .stackOverflow s.sp.toNat s t)

/-- 41_control_flow.md, RET: the entry last pushed becomes `pc`, and keeps its value in the stack (decision
D21); with none held it faults (decision D4). Above 16, where 10_state.md says no run comes, the model stops
by name (the model's choice, log entry 4). -/
def Obligations.ReturnPopsTheReturnAddress : Prop :=
  ∀ s : State,
    (0 < s.sp.toNat → s.sp.toNat ≤ 16 →
      ∃ t : State, exec .ret s = .next t ∧
        s.stackAt (s.sp.toNat - 1) = some t.pc ∧ t.sp.toNat = s.sp.toNat - 1 ∧
        FrameExcept [.sp, .pc] s t) ∧
    (s.sp = 0 → ∃ t : State, exec .ret s = .next t ∧ TakesFault .stackUnderflow 0 s t) ∧
    (16 < s.sp.toNat → exec .ret s = .fault .stackPointerOutOfRange)

/-- The call and return law (41_control_flow.md, derived there from CALL and RET): after a call, a return at
the depth it left, with its entry not overwritten, comes back to the address after the call and to the depth
before it. -/
def Obligations.ReturnComesBackAfterTheCall : Prop :=
  ∀ (nnn : Addr12) (s : State), s.sp.toNat < 16 →
    ∃ t : State, exec (.call nnn) s = .next t ∧
      ∀ u : State, u.sp = t.sp → u.stackAt s.sp.toNat = t.stackAt s.sp.toNat →
        ∃ v : State, exec .ret u = .next v ∧ v.pc = s.pc ∧ v.sp = s.sp

/-- R104 to R107: each compare skips exactly one word when its condition holds, and writes nothing else; the
last nibble of 5xyN and 9xyN is ignored; a skip that makes `pc` 0x1000 faults at the next fetch. -/
def Obligations.ComparesSkipOneWord : Prop :=
  ∀ (x y : RegIdx) (kk : Byte) (s : State),
    (∃ t : State, exec (.seImm x kk) s = .next t ∧
      t.pc = (if s.reg x = kk then s.pc + 2 else s.pc) ∧ FrameExcept [.pc] s t) ∧
    (∃ t : State, exec (.sneImm x kk) s = .next t ∧
      t.pc = (if s.reg x = kk then s.pc else s.pc + 2) ∧ FrameExcept [.pc] s t) ∧
    (∃ t : State, exec (.seReg x y) s = .next t ∧
      t.pc = (if s.reg x = s.reg y then s.pc + 2 else s.pc) ∧ FrameExcept [.pc] s t) ∧
    (∃ t : State, exec (.sneReg x y) s = .next t ∧
      t.pc = (if s.reg x = s.reg y then s.pc else s.pc + 2) ∧ FrameExcept [.pc] s t) ∧
    decode (wordXKK 0x3 x kk) = .seImm x kk ∧ decode (wordXKK 0x4 x kk) = .sneImm x kk ∧
    (∀ n : Fin 16, decode (wordXYN 0x5 x y n) = .seReg x y ∧ decode (wordXYN 0x9 x y n) = .sneReg x y) ∧
    (∀ t : State, (exec (.seImm x kk) s = .next t ∨ exec (.sneImm x kk) s = .next t) →
      t.pc = 0x1000 → s.fault = none →
        ∃ u : State, step t = .next u ∧ u.fault = some ⟨.fetchRange, 0x1000, 0x1000⟩)

/-- R88: a word that the sub-tables map to no instruction decodes to a NOP, and a NOP does nothing, so that
`pc` keeps the value after the advance. -/
def Obligations.UnmappedWordDoesNothing : Prop :=
  (∀ w : Word, unmapped w = true → decode w = .nop w) ∧
  (∀ (w : Word) (s : State), exec (.nop w) s = .next s)

/-! ## ALU -/

/-- R131 and R132: `V[x] <- kk`, and `V[x] <- (V[x] + kk) mod 256` with no flag, for every `x`. -/
def Obligations.ImmediatesLoadAndAdd : Prop :=
  ∀ (x : RegIdx) (kk : Byte) (s : State),
    decode (wordXKK 0x6 x kk) = .ldImm x kk ∧ decode (wordXKK 0x7 x kk) = .addImm x kk ∧
    (∃ t : State, exec (.ldImm x kk) s = .next t ∧
      t.reg x = kk ∧ RegsExcept [x] s t ∧ FrameExcept [.V] s t) ∧
    (∃ t : State, exec (.addImm x kk) s = .next t ∧
      (t.reg x).toNat = ((s.reg x).toNat + kk.toNat) % 256 ∧ RegsExcept [x] s t ∧ FrameExcept [.V] s t)

/-- 42_alu.md, 8xy0 to 8xy3: copy, OR, AND and XOR bit by bit into `V[x]`, and VF untouched unless it is the
destination (decision D1). -/
def Obligations.CopyAndLogicLeaveVFAlone : Prop :=
  ∀ (x y : RegIdx) (s : State),
    (∃ t : State, exec (.ldReg x y) s = .next t ∧
      t.reg x = s.reg y ∧ RegsExcept [x] s t ∧ FrameExcept [.V] s t) ∧
    (∃ t : State, exec (.or x y) s = .next t ∧
      (∀ b : Nat, (t.reg x).getLsbD b = ((s.reg x).getLsbD b || (s.reg y).getLsbD b)) ∧
      RegsExcept [x] s t ∧ FrameExcept [.V] s t) ∧
    (∃ t : State, exec (.and x y) s = .next t ∧
      (∀ b : Nat, (t.reg x).getLsbD b = ((s.reg x).getLsbD b && (s.reg y).getLsbD b)) ∧
      RegsExcept [x] s t ∧ FrameExcept [.V] s t) ∧
    (∃ t : State, exec (.xor x y) s = .next t ∧
      (∀ b : Nat, (t.reg x).getLsbD b = ((s.reg x).getLsbD b ^^ (s.reg y).getLsbD b)) ∧
      RegsExcept [x] s t ∧ FrameExcept [.V] s t)

/-- R137: the sum modulo 256, and VF the carry of the sum before truncation; with `x = 0xF` the carry wins. -/
def Obligations.AddStoresSumAndCarry : Prop :=
  ∀ (x y : RegIdx) (s : State), decode (wordXYN 0x8 x y 0x4) = .addReg x y ∧
    ∃ t : State, exec (.addReg x y) s = .next t ∧
    (x ≠ 0xF → (t.reg x).toNat = ((s.reg x).toNat + (s.reg y).toNat) % 256) ∧
    (t.reg 0xF).toNat = (if 255 < (s.reg x).toNat + (s.reg y).toNat then 1 else 0) ∧
    RegsExcept [x, 0xF] s t ∧ FrameExcept [.V] s t

/-- R138: the difference `V[x] - V[y]` modulo 256, and VF 1 exactly when there is no borrow; with `x = 0xF` the
flag wins. -/
def Obligations.SubStoresDifferenceAndNoBorrow : Prop :=
  ∀ (x y : RegIdx) (s : State), decode (wordXYN 0x8 x y 0x5) = .sub x y ∧
    ∃ t : State, exec (.sub x y) s = .next t ∧
    (x ≠ 0xF → (((t.reg x).toNat : Int) = (((s.reg x).toNat : Int) - (s.reg y).toNat) % 256)) ∧
    (t.reg 0xF).toNat = (if (s.reg y).toNat ≤ (s.reg x).toNat then 1 else 0) ∧
    RegsExcept [x, 0xF] s t ∧ FrameExcept [.V] s t

/-- R140: the difference `V[y] - V[x]` modulo 256, and VF 1 exactly when there is no borrow; with `x = 0xF` the
flag wins. -/
def Obligations.SubnStoresDifferenceAndNoBorrow : Prop :=
  ∀ (x y : RegIdx) (s : State), decode (wordXYN 0x8 x y 0x7) = .subn x y ∧
    ∃ t : State, exec (.subn x y) s = .next t ∧
    (x ≠ 0xF → (((t.reg x).toNat : Int) = (((s.reg y).toNat : Int) - (s.reg x).toNat) % 256)) ∧
    (t.reg 0xF).toNat = (if (s.reg x).toNat ≤ (s.reg y).toNat then 1 else 0) ∧
    RegsExcept [x, 0xF] s t ∧ FrameExcept [.V] s t

/-- R139: `V[x]` halved, and VF the bit shifted out; `y` is not read; with `x = 0xF` the flag wins. -/
def Obligations.ShiftRightHalves : Prop :=
  ∀ (x y : RegIdx) (s : State), decode (wordXYN 0x8 x y 0x6) = .shr x y ∧
    ∃ t : State, exec (.shr x y) s = .next t ∧
    (x ≠ 0xF → (t.reg x).toNat = (s.reg x).toNat / 2) ∧
    (t.reg 0xF).toNat = (s.reg x).toNat % 2 ∧
    RegsExcept [x, 0xF] s t ∧ FrameExcept [.V] s t

/-- R141: `V[x]` doubled modulo 256, and VF the bit shifted out; `y` is not read; with `x = 0xF` the flag
wins. -/
def Obligations.ShiftLeftDoubles : Prop :=
  ∀ (x y : RegIdx) (s : State), decode (wordXYN 0x8 x y 0xE) = .shl x y ∧
    ∃ t : State, exec (.shl x y) s = .next t ∧
    (x ≠ 0xF → (t.reg x).toNat = 2 * (s.reg x).toNat % 256) ∧
    (t.reg 0xF).toNat = (s.reg x).toNat / 128 ∧
    RegsExcept [x, 0xF] s t ∧ FrameExcept [.V] s t

/-- 42_alu.md, Cxkk: `V[x]` is the byte drawn, ANDed with `kk`, and nothing else of the spec's state changes.
The byte is free (decision D12); that it is `Config.freeDraw` of a counter that goes up by one is the model's
form of it (log entry 1). -/
def Obligations.RandomByteIsMasked : Prop :=
  ∀ (x : RegIdx) (kk : Byte) (s : State), ∃ t : State, exec (.rnd x kk) s = .next t ∧
    t.reg x = (Config.freeDraw s.draws &&& kk) ∧ t.draws = s.draws + 1 ∧
    RegsExcept [x] s t ∧ FrameExcept [.V, .draws] s t

/-! ## Index register and memory -/

/-- R171: `I <- zext_16(nnn)` and nothing else. -/
def Obligations.SetIndexLoadsTheAddress : Prop :=
  ∀ (nnn : Addr12) (s : State), decode (wordNNN 0xA nnn) = .ldI nnn ∧
    ∃ t : State, exec (.ldI nnn) s = .next t ∧
    t.I.toNat = nnn.toNat ∧ FrameExcept [.I] s t

/-- 43_index_memory.md, Fx1E: the sum modulo 2^16 (decision D14), with no flag and no fault. -/
def Obligations.AddIndexWraps : Prop :=
  ∀ (x : RegIdx) (s : State), ∃ t : State, exec (.addI x) s = .next t ∧
    t.I.toNat = (s.I.toNat + (s.reg x).toNat) % 65536 ∧ FrameExcept [.I] s t

/-- 43_index_memory.md, Fx29: `I <- 0x050 + 5 * V[x]`, with no mask (decisions D8, D9); for a digit, the five
bytes from there are its glyph as long as memory still holds the font (20_memory.md R56, whose bytes the spec
takes from general knowledge, log entry 5). -/
def Obligations.FontAddressPointsAtTheGlyph : Prop :=
  ∀ (x : RegIdx) (s : State), ∃ t : State, exec (.ldF x) s = .next t ∧
    t.I.toNat = 0x050 + 5 * (s.reg x).toNat ∧ FrameExcept [.I] s t ∧
    ((s.reg x).toNat < 16 →
      (∀ a : Nat, 0x050 ≤ a → a < 0x0A0 → Memory.read s.mem a = Memory.read State.reset.mem a) →
      (List.range 5).map (fun j => Memory.read t.mem (t.I.toNat + j)) =
        Config.fontGlyphs.getD (s.reg x).toNat [])

/-- 43_index_memory.md, Fx33: hundreds, tens and ones at `I`, `I+1`, `I+2`, every other byte and all else
unchanged, when the three addresses lie in memory. -/
def Obligations.BcdStoresThreeDigits : Prop :=
  ∀ (x : RegIdx) (s : State), Memory.wf s.mem = true → s.I.toNat + 3 ≤ 0x1000 →
    ∃ t : State, exec (.ldB x) s = .next t ∧
      (Memory.read t.mem s.I.toNat).toNat = (s.reg x).toNat / 100 ∧
      (Memory.read t.mem (s.I.toNat + 1)).toNat = (s.reg x).toNat / 10 % 10 ∧
      (Memory.read t.mem (s.I.toNat + 2)).toNat = (s.reg x).toNat % 10 ∧
      MemExcept s.I.toNat 3 s t ∧ FrameExcept [.mem] s t

/-- 43_index_memory.md, Fx55: `V[i]` at `I + i` for `i` up to `x`, every other byte and all else unchanged,
`I` too (decision D2), when the addresses lie in memory. -/
def Obligations.StoreRegsWritesAscendingBytes : Prop :=
  ∀ (x : RegIdx) (s : State), Memory.wf s.mem = true → s.I.toNat + (x.val + 1) ≤ 0x1000 →
    ∃ t : State, exec (.ldMemVx x) s = .next t ∧
      (∀ r : RegIdx, r ≤ x → Memory.read t.mem (s.I.toNat + r.val) = s.reg r) ∧
      MemExcept s.I.toNat (x.val + 1) s t ∧ FrameExcept [.mem] s t

/-- 43_index_memory.md, Fx65: `V[i]` from `I + i` for `i` up to `x`, the other registers and all else
unchanged, `I` too (decision D2), when the addresses lie in memory. -/
def Obligations.LoadRegsReadsAscendingBytes : Prop :=
  ∀ (x : RegIdx) (s : State), s.I.toNat + (x.val + 1) ≤ 0x1000 →
    ∃ t : State, exec (.ldVxMem x) s = .next t ∧
      (∀ r : RegIdx, r ≤ x → t.reg r = Memory.read s.mem (s.I.toNat + r.val)) ∧
      (∀ r : RegIdx, x < r → t.reg r = s.reg r) ∧ FrameExcept [.V] s t

/-- 43_index_memory.md, common rules, and 44_display.md, Dxyn: a transfer with any address at or above 0x1000
takes `MEM_RANGE` with `max(I, 0x1000)`, and nothing is written (decisions D5, D16). -/
def Obligations.TransferPastMemoryFaults : Prop :=
  ∀ (x y : RegIdx) (n : Fin 16) (s : State),
    (0x1000 < s.I.toNat + 3 →
      ∃ t : State, exec (.ldB x) s = .next t ∧ TakesFault .memRange (max s.I.toNat 0x1000) s t) ∧
    (0x1000 < s.I.toNat + (x.val + 1) →
      (∃ t : State, exec (.ldMemVx x) s = .next t ∧ TakesFault .memRange (max s.I.toNat 0x1000) s t) ∧
      (∃ t : State, exec (.ldVxMem x) s = .next t ∧ TakesFault .memRange (max s.I.toNat 0x1000) s t)) ∧
    (0 < n.val → 0x1000 < s.I.toNat + n.val →
      ∃ t : State, exec (.drw x y n) s = .next t ∧ TakesFault .memRange (max s.I.toNat 0x1000) s t)

/-- The store and load law (43_index_memory.md, derived there from Fx55 and Fx65): a load of the same
registers from the same place, its bytes not written in between, gives back the values stored, and `I` is the
same throughout. -/
def Obligations.LoadRegsRestoresStoredRegs : Prop :=
  ∀ (x : RegIdx) (s : State), Memory.wf s.mem = true → s.I.toNat + (x.val + 1) ≤ 0x1000 →
    ∃ t : State, exec (.ldMemVx x) s = .next t ∧ t.I = s.I ∧
      ∀ u : State, u.I = s.I →
        (∀ a : Nat, s.I.toNat ≤ a → a ≤ s.I.toNat + x.val →
          Memory.read u.mem a = Memory.read t.mem a) →
        ∃ v : State, exec (.ldVxMem x) u = .next v ∧ v.I = s.I ∧
          ∀ r : RegIdx, r ≤ x → v.reg r = s.reg r

/-! ## Display -/

/-- R200: every pixel unlit, `redraw` set, and nothing else; every word `0x0hh0` is CLS. -/
def Obligations.ClearScreenUnlightsEveryPixel : Prop :=
  (∀ s : State, ∃ t : State, exec .cls s = .next t ∧
    (∀ row col : Nat, row < 32 → col < 64 → Framebuffer.pixel t.fb row col = false) ∧
    t.redraw = true ∧ FrameExcept [.fb, .redraw] s t) ∧
  (∀ w : Word, w &&& 0xF00F = 0x0000 → decode w = .cls)

/-- 44_display.md, Dxyn: with its bytes in memory, or none, the draw XORs exactly the pixels that the sprite's
1 bits cover, its origin wrapped and its right and bottom edges clipped (decision D3); VF is 1 exactly when a
covered pixel was lit, and else 0; `redraw` is set; every other register and part is unchanged. So a draw
changes only pixels of its own clipped rectangle. -/
def Obligations.DrawXorsTheClippedSprite : Prop :=
  ∀ (x y : RegIdx) (n : Fin 16) (s : State), (n.val = 0 ∨ s.I.toNat + n.val ≤ 0x1000) →
    ∃ t : State, exec (.drw x y n) s = .next t ∧
      (∀ row col : Nat, row < 32 → col < 64 →
        Framebuffer.pixel t.fb row col =
          (Framebuffer.pixel s.fb row col ^^
            spriteCovers s.mem s.I.toNat ((s.reg x).toNat % 64) ((s.reg y).toNat % 32) n.val row col)) ∧
      ((∃ row col : Nat,
          spriteCovers s.mem s.I.toNat ((s.reg x).toNat % 64) ((s.reg y).toNat % 32) n.val row col = true ∧
          Framebuffer.pixel s.fb row col = true) → t.reg 0xF = 1) ∧
      ((∀ row col : Nat,
          spriteCovers s.mem s.I.toNat ((s.reg x).toNat % 64) ((s.reg y).toNat % 32) n.val row col = true →
          Framebuffer.pixel s.fb row col = false) → t.reg 0xF = 0) ∧
      t.redraw = true ∧ RegsExcept [0xF] s t ∧ FrameExcept [.V, .fb, .redraw] s t

/-- The XOR involution (44_display.md, derived there from Dxyn): with neither coordinate in VF, drawing the same
sprite a second time restores every pixel, and the second draw reports a collision exactly when a covered
pixel was unlit before the first. -/
def Obligations.SecondDrawRestoresEveryPixel : Prop :=
  ∀ (x y : RegIdx) (n : Fin 16) (s : State), x ≠ 0xF → y ≠ 0xF →
    (n.val = 0 ∨ s.I.toNat + n.val ≤ 0x1000) →
    ∃ t : State, exec (.drw x y n) s = .next t ∧
      ∀ t' : State, FrameExcept [.pc, .DT, .ST, .key, .redraw] t t' →
        ∃ u : State, exec (.drw x y n) t' = .next u ∧
          (∀ row col : Nat, row < 32 → col < 64 →
            Framebuffer.pixel u.fb row col = Framebuffer.pixel s.fb row col) ∧
          (u.reg 0xF = 1 ↔ ∃ row col : Nat,
            spriteCovers s.mem s.I.toNat ((s.reg x).toNat % 64) ((s.reg y).toNat % 32) n.val row col = true ∧
            Framebuffer.pixel s.fb row col = false)

/-- The wrapped origin (44_display.md, derived there from Dxyn): coordinates that agree modulo 64 and modulo 32
draw the same pixels and the same collision flag. -/
def Obligations.OriginWrapsModuloTheGrid : Prop :=
  ∀ (x y : RegIdx) (n : Fin 16) (s s' : State), FrameExcept [.V] s s' →
    (s'.reg x).toNat % 64 = (s.reg x).toNat % 64 → (s'.reg y).toNat % 32 = (s.reg y).toNat % 32 →
    (n.val = 0 ∨ s.I.toNat + n.val ≤ 0x1000) →
      ∃ t t' : State, exec (.drw x y n) s = .next t ∧ exec (.drw x y n) s' = .next t' ∧
        t'.fb = t.fb ∧ t'.reg 0xF = t.reg 0xF

/-! ## Timers and input -/

/-- 45_timers_input.md, Ex9E and ExA1: the latch that `V[x]` numbers decides the skip of one word, and nothing
else changes; an index of 16 or more takes `KEY_RANGE` with the index (decision D6). -/
def Obligations.KeySkipsFollowTheLatch : Prop :=
  ∀ (x : RegIdx) (s : State),
    (∀ pressed : Bool, s.key[(s.reg x).toNat]? = some pressed →
      (∃ t : State, exec (.skp x) s = .next t ∧
        t.pc = (if pressed then s.pc + 2 else s.pc) ∧ FrameExcept [.pc] s t) ∧
      (∃ t : State, exec (.sknp x) s = .next t ∧
        t.pc = (if pressed then s.pc else s.pc + 2) ∧ FrameExcept [.pc] s t)) ∧
    (16 ≤ (s.reg x).toNat →
      (∃ t : State, exec (.skp x) s = .next t ∧ TakesFault .keyRange (s.reg x).toNat s t) ∧
      (∃ t : State, exec (.sknp x) s = .next t ∧ TakesFault .keyRange (s.reg x).toNat s t))

/-- 45_timers_input.md, Fx0A: with a key down, `V[x]` is the least index of one and the latches stay (decision
D15); with none, `pc` goes back to this instruction and nothing else changes. -/
def Obligations.WaitKeyTakesTheLeastKey : Prop :=
  ∀ (x : RegIdx) (s : State),
    (∀ k : Fin 16, s.key[k] = true → (∀ j : Fin 16, j < k → s.key[j] = false) →
      ∃ t : State, exec (.ldVxK x) s = .next t ∧
        (t.reg x).toNat = k.val ∧ RegsExcept [x] s t ∧ FrameExcept [.V] s t) ∧
    ((∀ k : Fin 16, s.key[k] = false) →
      ∃ t : State, exec (.ldVxK x) s = .next t ∧ t.pc = s.pc - 2 ∧ FrameExcept [.pc] s t)

/-- R222, R224 and R225: `V[x] <- DT`, `DT <- V[x]`, `ST <- V[x]`, each and nothing else; after the last the
tone is on exactly when the value is not 0. -/
def Obligations.TimerInstructionsMoveTheirByte : Prop :=
  ∀ (x : RegIdx) (s : State),
    decode (wordXKK 0xF x 0x07) = .ldVxDt x ∧ decode (wordXKK 0xF x 0x15) = .ldDtVx x ∧
    decode (wordXKK 0xF x 0x18) = .ldStVx x ∧
    (∃ t : State, exec (.ldVxDt x) s = .next t ∧
      t.reg x = s.DT ∧ RegsExcept [x] s t ∧ FrameExcept [.V] s t) ∧
    (∃ t : State, exec (.ldDtVx x) s = .next t ∧ t.DT = s.reg x ∧ FrameExcept [.DT] s t) ∧
    (∃ t : State, exec (.ldStVx x) s = .next t ∧
      t.ST = s.reg x ∧ (t.tone = true ↔ s.reg x ≠ 0) ∧ FrameExcept [.ST] s t)

/-! ## The timer tick and the host -/

/-- 60_exceptions.md, `tick()`: each timer goes down by one unless it is 0, and nothing else changes, halted or
not (decision D7). -/
def Obligations.TickCountsDownToZero : Prop :=
  ∀ s : State,
    (tick s).DT.toNat = s.DT.toNat - 1 ∧ (tick s).ST.toNat = s.ST.toNat - 1 ∧
    FrameExcept [.DT, .ST] s (tick s)

/-- R255: the tone is on exactly when `ST` is not 0. -/
def Obligations.ToneFollowsTheSoundTimer : Prop :=
  ∀ s : State, s.tone = true ↔ s.ST.toNat ≠ 0

/-- R256 and R257: a key write sets the one latch it names, to any value, and nothing else, and the core itself
never writes one; consuming a frame reads the pixels and `redraw`, clears
`redraw`, and changes nothing else. -/
def Obligations.HostWritesLatchesAndClearsRedraw : Prop :=
  ∀ (k : Fin 16) (pressed : Bool) (s : State),
    (writeKey k pressed s).key[k] = pressed ∧
    (∀ j : Fin 16, j ≠ k → (writeKey k pressed s).key[j] = s.key[j]) ∧
    FrameExcept [.key] s (writeKey k pressed s) ∧
    (∀ t : State, step s = .next t → t.key = s.key) ∧ (tick s).key = s.key ∧
    s.frame = (s.fb, s.redraw) ∧ (consumeFrame s).redraw = false ∧
    FrameExcept [.redraw] s (consumeFrame s)

/-- 70_reset_and_hazards.md, `reset()`: from any state, every part at its reset value: registers, `I`, `sp`,
stack, timers, latches and pixels 0, `redraw` 0 (decision D10), no fault (decision D11), `pc` 0x200, the font
at 0x050 (decision D8, log entry 5) and 0 in every other byte. The state after construction has them too. -/
def Obligations.ResetGivesEveryPartItsValue : Prop :=
  ∀ s t : State, (t = reset s ∨ t = State.reset) →
    (∀ r : RegIdx, t.reg r = 0) ∧ t.I = 0 ∧ t.pc = 0x200 ∧ t.sp = 0 ∧
    (∀ k : Nat, k < 16 → t.stackAt k = some 0) ∧ t.DT = 0 ∧ t.ST = 0 ∧
    (∀ k : Fin 16, t.key[k] = false) ∧
    (∀ row col : Nat, row < 32 → col < 64 → Framebuffer.pixel t.fb row col = false) ∧
    t.redraw = false ∧ t.fault = none ∧
    (∀ d j : Nat, d < 16 → j < 5 →
      some (Memory.read t.mem (0x050 + 5 * d + j)) = (Config.fontGlyphs.getD d [])[j]?) ∧
    (∀ a : Nat, a < 0x050 ∨ 0x0A0 ≤ a → Memory.read t.mem a = 0)

/-- R281: an image of more than 3584 bytes is refused and the state is not touched; any other is loaded: every
part but memory as `reset()` leaves it, the image at 0x200 and upward, and every other byte of memory as
`reset()` leaves it. -/
def Obligations.LoadProgramResetsAndCopies : Prop :=
  ∀ (bytes : List Byte) (s : State),
    (3584 < bytes.length →
      loadProgram bytes s = .imageTooLarge ∧ hostEvent (.load bytes) s = .next s) ∧
    (bytes.length ≤ 3584 →
      ∃ t : State, loadProgram bytes s = .ok t ∧ hostEvent (.load bytes) s = .next t ∧
        FrameExcept [.mem] (reset s) t ∧
        (∀ j : Nat, j < bytes.length → some (Memory.read t.mem (0x200 + j)) = bytes[j]?) ∧
        MemExcept 0x200 bytes.length (reset s) t)

/-- A core halted by a fault leaves the halt through a program load that succeeds, and through no other
operation: a refused image keeps the latch as it was (60_exceptions.md, fault outcome, decision D11;
70_reset_and_hazards.md, load boundary, derived there). -/
def Obligations.OnlyALoadLeavesTheHalt : Prop :=
  ∀ (e : HostEvent) (s t : State) (f : FaultRecord), s.fault = some f → hostEvent e s = .next t →
    (∀ bytes : List Byte, e = .load bytes → bytes.length ≤ 3584 → t.fault = none) ∧
    ((∀ bytes : List Byte, e = .load bytes → 3584 < bytes.length) → t.fault = some f)

/-- The first step after construction executes the word 0x0000, which is CLS: `redraw` is set and `pc` is 0x202
(70_reset_and_hazards.md, construction, derived there). -/
def Obligations.FirstStepAfterConstructionClears : Prop :=
  ∃ t : State, step State.reset = .next t ∧ t.redraw = true ∧ t.pc = 0x202 ∧
    (∀ row col : Nat, row < 32 → col < 64 → Framebuffer.pixel t.fb row col = false) ∧
    FrameExcept [.fb, .redraw, .pc] State.reset t
end

