-- ==== Sys2Proof/Laws/Draw.lean ====
section
/-! SUPPORT. The compositor: what drawing does to every pixel, and when it reports a collision. -/

namespace Sys2Proof.Machine

/-! ## Pixels -/

/-- No pixel of the blank grid is lit. -/
@[simp] theorem Framebuffer.pixel_blank (row col : Nat) : Framebuffer.pixel .blank row col = false := by
  simp only [Framebuffer.pixel, Framebuffer.blank, blankRow, Vector.getElem?_replicate]
  by_cases hr : row < 32 <;> by_cases hc : col < 64 <;> simp [hr, hc]

/-- A flip inside the grid changes the pixel flipped and no other. -/
theorem Framebuffer.pixel_flip (fb : Framebuffer) (py px : Nat) (hy : py < 32) (hx : px < 64)
    (row col : Nat) :
    Framebuffer.pixel (Framebuffer.flip fb py px) row col =
      (Framebuffer.pixel fb row col ^^ decide (row = py ∧ col = px)) := by
  by_cases hr : row = py
  · subst hr
    by_cases hc : col = px
    · subst hc
      simp [Framebuffer.flip, Framebuffer.pixel, hy, hx]
    · simp [Framebuffer.flip, Framebuffer.pixel, hy, hc, Ne.symm hc]
  · simp [Framebuffer.flip, Framebuffer.pixel, hr, Ne.symm hr]

/-- Two grids with the same pixels are the same. -/
theorem Framebuffer.ext_pixel (g h : Framebuffer)
    (hp : ∀ row col, row < 32 → col < 64 → Framebuffer.pixel g row col = Framebuffer.pixel h row col) :
    g = h := by
  refine Vector.ext fun row hr => Vector.ext fun col hc => ?_
  simpa [Framebuffer.pixel, hr, hc] using hp row col hr hc

/-! ## Drawing -/

/-- One sprite pixel flips the pixel under it when its bit is 1 and it lies in the grid. -/
theorem drawPixel_pixel (py px : Nat) (bit : Bool) (cv : Canvas) (row col : Nat) :
    Framebuffer.pixel (drawPixel py px bit cv).1 row col =
      (Framebuffer.pixel cv.1 row col ^^
        (bit && decide (row = py ∧ col = px ∧ row < 32 ∧ col < 64))) := by
  unfold drawPixel
  split_ifs with h
  · obtain ⟨hy, hx, hb⟩ := h
    simp only [Config.height, Config.width] at hy hx
    rw [Framebuffer.pixel_flip cv.1 py px hy hx, hb, Bool.true_and]
    congr 1
    simp only [decide_eq_decide]
    omega
  · have : (bit && decide (row = py ∧ col = px ∧ row < 32 ∧ col < 64)) = false := by
      simp only [Bool.and_eq_false_imp, decide_eq_false_iff_not]
      rintro hb ⟨rfl, rfl, hr, hc⟩
      exact h ⟨hr, hc, hb⟩
    rw [this, Bool.xor_false]

/-- One sprite pixel reports a collision when it turns a lit pixel off. -/
theorem drawPixel_collision (py px : Nat) (bit : Bool) (cv : Canvas) :
    (drawPixel py px bit cv).2 = true ↔
      cv.2 = true ∨ (bit = true ∧ py < 32 ∧ px < 64 ∧ Framebuffer.pixel cv.1 py px = true) := by
  unfold drawPixel
  split_ifs with h
  · simp only [Config.height, Config.width] at h
    simp [h]
  · simp only [Config.height, Config.width] at h
    tauto

/-- The pixels after the first `k` pixels of a sprite row. -/
theorem drawRow_pixel_upto (py x0 : Nat) (b : Byte) (cv : Canvas) (k row col : Nat) :
    Framebuffer.pixel ((List.range k).foldl
        (fun acc c => drawPixel py (x0 + c) (spriteBit b c) acc) cv).1 row col =
      (Framebuffer.pixel cv.1 row col ^^
        (decide (row = py ∧ row < 32 ∧ x0 ≤ col ∧ col < x0 + k ∧ col < 64) &&
          spriteBit b (col - x0))) := by
  induction k with
  | zero =>
    have : ¬ (row = py ∧ row < 32 ∧ x0 ≤ col ∧ col < x0 + 0 ∧ col < 64) := by omega
    rw [decide_eq_false this, Bool.false_and, Bool.xor_false]
    rfl
  | succ k ih =>
    rw [List.range_succ, List.foldl_append, List.foldl_cons, List.foldl_nil, drawPixel_pixel, ih,
      Bool.xor_assoc]
    congr 1
    by_cases hc : col = x0 + k
    · subst hc
      have h1 : ¬ (row = py ∧ row < 32 ∧ x0 ≤ x0 + k ∧ x0 + k < x0 + k ∧ x0 + k < 64) := by omega
      have h2 : (row = py ∧ row < 32 ∧ x0 ≤ x0 + k ∧ x0 + k < x0 + (k + 1) ∧ x0 + k < 64) ↔
          (row = py ∧ x0 + k = x0 + k ∧ row < 32 ∧ x0 + k < 64) := by omega
      rw [decide_eq_false h1, Bool.false_and, Bool.false_xor, Bool.and_comm, Nat.add_sub_cancel_left]
      simp only [h2]
    · have h1 : ¬ (row = py ∧ col = x0 + k ∧ row < 32 ∧ col < 64) := by omega
      have h2 : (row = py ∧ row < 32 ∧ x0 ≤ col ∧ col < x0 + (k + 1) ∧ col < 64) ↔
          (row = py ∧ row < 32 ∧ x0 ≤ col ∧ col < x0 + k ∧ col < 64) := by omega
      simp only [h2, decide_eq_false h1, Bool.and_false, Bool.xor_false]

/-- The collision report after the first `k` pixels of a sprite row. -/
theorem drawRow_collision_upto (py x0 : Nat) (b : Byte) (cv : Canvas) (k : Nat) :
    ((List.range k).foldl (fun acc c => drawPixel py (x0 + c) (spriteBit b c) acc) cv).2 = true ↔
      cv.2 = true ∨ ∃ c, c < k ∧ spriteBit b c = true ∧ py < 32 ∧ x0 + c < 64 ∧
        Framebuffer.pixel cv.1 py (x0 + c) = true := by
  induction k with
  | zero => simp
  | succ k ih =>
    have hk : ¬ (py = py ∧ py < 32 ∧ x0 ≤ x0 + k ∧ x0 + k < x0 + k ∧ x0 + k < 64) := by omega
    rw [List.range_succ, List.foldl_append, List.foldl_cons, List.foldl_nil, drawPixel_collision, ih,
      drawRow_pixel_upto, decide_eq_false hk, Bool.false_and, Bool.xor_false]
    constructor
    · rintro ((h | ⟨c, hc, h⟩) | h)
      · exact .inl h
      · exact .inr ⟨c, Nat.lt_succ_of_lt hc, h⟩
      · exact .inr ⟨k, Nat.lt_succ_self k, h⟩
    · rintro (h | ⟨c, hc, h⟩)
      · exact .inl (.inl h)
      · rcases Nat.lt_succ_iff_lt_or_eq.mp hc with hc | rfl
        · exact .inl (.inr ⟨c, hc, h⟩)
        · exact .inr h

/-- The pixels after the first `k` rows of a sprite. -/
theorem drawSprite_pixel (mem : Memory) (base x0 y0 k : Nat) (fb : Framebuffer) (row col : Nat) :
    Framebuffer.pixel (drawSprite mem base x0 y0 k fb).1 row col =
      (Framebuffer.pixel fb row col ^^ spriteCovers mem base x0 y0 k row col) := by
  unfold drawSprite
  induction k with
  | zero =>
    have : ¬ (y0 ≤ row ∧ row < y0 + 0 ∧ row < 32 ∧ x0 ≤ col ∧ col < x0 + 8 ∧ col < 64) := by omega
    rw [spriteCovers, decide_eq_false this, Bool.false_and, Bool.xor_false]
    rfl
  | succ k ih =>
    rw [List.range_succ, List.foldl_append, List.foldl_cons, List.foldl_nil, drawRow, drawRow_pixel_upto,
      ih, Bool.xor_assoc]
    congr 1
    unfold spriteCovers spriteBit
    by_cases hr : row = y0 + k
    · subst hr
      have h1 : ¬ (y0 ≤ y0 + k ∧ y0 + k < y0 + k ∧ y0 + k < 32 ∧ x0 ≤ col ∧ col < x0 + 8 ∧ col < 64) := by
        omega
      have h2 : (y0 ≤ y0 + k ∧ y0 + k < y0 + (k + 1) ∧ y0 + k < 32 ∧ x0 ≤ col ∧ col < x0 + 8 ∧ col < 64) ↔
          (y0 + k = y0 + k ∧ y0 + k < 32 ∧ x0 ≤ col ∧ col < x0 + 8 ∧ col < 64) := by omega
      rw [decide_eq_false h1, Bool.false_and, Bool.false_xor, Nat.add_sub_cancel_left]
      simp only [h2]
    · have h1 : ¬ (row = y0 + k ∧ row < 32 ∧ x0 ≤ col ∧ col < x0 + 8 ∧ col < 64) := by omega
      have h2 : (y0 ≤ row ∧ row < y0 + (k + 1) ∧ row < 32 ∧ x0 ≤ col ∧ col < x0 + 8 ∧ col < 64) ↔
          (y0 ≤ row ∧ row < y0 + k ∧ row < 32 ∧ x0 ≤ col ∧ col < x0 + 8 ∧ col < 64) := by omega
      rw [decide_eq_false h1, Bool.false_and, Bool.xor_false]
      simp only [h2]

/-- A sprite reports a collision exactly when one of its 1 bits lies over a lit pixel of the grid as it was
before the draw. -/
theorem drawSprite_collision (mem : Memory) (base x0 y0 k : Nat) (fb : Framebuffer) :
    (drawSprite mem base x0 y0 k fb).2 = true ↔
      ∃ row col, spriteCovers mem base x0 y0 k row col = true ∧ Framebuffer.pixel fb row col = true := by
  induction k with
  | zero =>
    simp only [drawSprite, List.range_zero, List.foldl_nil, Bool.false_eq_true, false_iff]
    rintro ⟨row, col, h, -⟩
    simp only [spriteCovers, Bool.and_eq_true, decide_eq_true_eq] at h
    omega
  | succ k ih =>
    have hstep : drawSprite mem base x0 y0 (k + 1) fb =
        drawRow (y0 + k) x0 (Memory.read mem (base + k)) (drawSprite mem base x0 y0 k fb) := by
      simp only [drawSprite, List.range_succ, List.foldl_append, List.foldl_cons, List.foldl_nil]
    have hfree : ∀ c, spriteCovers mem base x0 y0 k (y0 + k) (x0 + c) = false := by
      intro c
      simp only [spriteCovers, Bool.and_eq_false_imp, decide_eq_true_eq]
      omega
    rw [hstep, drawRow, drawRow_collision_upto, ih]
    simp only [drawSprite_pixel, hfree, Bool.xor_false]
    constructor
    · rintro (⟨row, col, h, hp⟩ | ⟨c, hc, hb, hy, hx, hp⟩)
      · refine ⟨row, col, ?_, hp⟩
        simp only [spriteCovers, Bool.and_eq_true, decide_eq_true_eq] at h ⊢
        exact ⟨by omega, h.2⟩
      · refine ⟨y0 + k, x0 + c, ?_, hp⟩
        simp only [spriteCovers, Bool.and_eq_true, decide_eq_true_eq, Nat.add_sub_cancel_left]
        exact ⟨by omega, hb⟩
    · rintro ⟨row, col, h, hp⟩
      simp only [spriteCovers, Bool.and_eq_true, decide_eq_true_eq] at h
      by_cases hr : row = y0 + k
      · subst hr
        refine .inr ⟨col - x0, by omega, ?_, by omega, by omega, ?_⟩
        · rw [spriteBit, ← Nat.add_sub_cancel_left (n := y0) (m := k)]
          simpa [Nat.add_sub_cancel_left] using h.2
        · rwa [show x0 + (col - x0) = col by omega]
      · refine .inl ⟨row, col, ?_, hp⟩
        simp only [spriteCovers, Bool.and_eq_true, decide_eq_true_eq]
        exact ⟨by omega, h.2⟩

end Sys2Proof.Machine
end

