-- ==== Sys2Proof/Laws/Encoding.lean ====
section
/-! SUPPORT. Words as numbers: what each field reads, what each format writes, and each field of each
format. -/

namespace Sys2Proof

/-! ## Fields as quotients and remainders -/

theorem opField_toNat (w : Word) : (opField w).toNat = w.toNat / 4096 := by
  have := w.isLt
  simp only [opField, BitVec.extractLsb'_toNat, Nat.shiftRight_eq_div_pow]
  omega

theorem xField_val (w : Word) : (xField w).val = w.toNat / 256 % 16 := by
  simp [xField, Nat.shiftRight_eq_div_pow]

theorem yField_val (w : Word) : (yField w).val = w.toNat / 16 % 16 := by
  simp [yField, Nat.shiftRight_eq_div_pow]

theorem nField_val (w : Word) : (nField w).val = w.toNat % 16 := by
  simp [nField]

theorem kkField_toNat (w : Word) : (kkField w).toNat = w.toNat % 256 := by
  simp [kkField]

theorem nnnField_toNat (w : Word) : (nnnField w).toNat = w.toNat % 4096 := by
  simp [nnnField]

theorem firstByte_toNat (w : Word) : (firstByte w).toNat = w.toNat / 256 := by
  have := w.isLt
  simp only [firstByte, BitVec.extractLsb'_toNat, Nat.shiftRight_eq_div_pow]
  omega

theorem secondByte_toNat (w : Word) : (secondByte w).toNat = w.toNat % 256 := by
  simp [secondByte]

/-! ## Formats as sums -/

/-- Concatenation as a sum. -/
theorem append_toNat {m n : Nat} (a : BitVec m) (b : BitVec n) :
    (a ++ b).toNat = a.toNat * 2 ^ n + b.toNat := by
  rw [BitVec.toNat_append, Nat.shiftLeft_eq, Nat.mul_comm, Nat.two_pow_add_eq_or_of_lt b.isLt]

theorem wordOfBytes_toNat (a b : Byte) : (wordOfBytes a b).toNat = a.toNat * 256 + b.toNat :=
  append_toNat a b

theorem wordNNN_toNat (op : BitVec 4) (nnn : Addr12) :
    (wordNNN op nnn).toNat = op.toNat * 4096 + nnn.toNat := append_toNat op nnn

theorem wordXKK_toNat (op : BitVec 4) (x : RegIdx) (kk : Byte) :
    (wordXKK op x kk).toNat = op.toNat * 4096 + x.val * 256 + kk.toNat := by
  simp only [wordXKK, append_toNat, nibble, BitVec.toNat_ofFin]
  omega

theorem wordXYN_toNat (op : BitVec 4) (x y : RegIdx) (n : Fin 16) :
    (wordXYN op x y n).toNat = op.toNat * 4096 + x.val * 256 + y.val * 16 + n.val := by
  simp only [wordXYN, append_toNat, nibble, BitVec.toNat_ofFin]
  omega

/-! ## Bytes of a word -/

/-- Splitting a word in its two bytes and joining them again gives the word. -/
@[simp] theorem wordOfBytes_bytes (w : Word) : wordOfBytes (firstByte w) (secondByte w) = w := by
  refine BitVec.eq_of_toNat_eq ?_
  rw [wordOfBytes_toNat, firstByte_toNat, secondByte_toNat]
  omega

/-! ## Masks -/

/-- Masking with 0xF00F keeps the family and the last nibble. -/
theorem opField_mask (w : Word) : opField (w &&& 0xF00F) = opField w := by
  have h := BitVec.extractLsb'_and (x := w) (y := 0xF00F) (start := 12) (len := 4)
  rw [opField, h, show (0xF00F : Word).extractLsb' 12 4 = BitVec.allOnes 4 by decide, BitVec.and_allOnes]
  rfl

theorem nField_mask (w : Word) : nField (w &&& 0xF00F) = nField w := by
  have h := BitVec.extractLsb'_and (x := w) (y := 0xF00F) (start := 0) (len := 4)
  rw [nField, h, show (0xF00F : Word).extractLsb' 0 4 = BitVec.allOnes 4 by decide, BitVec.and_allOnes]
  rfl

/-! ## Each field of each format -/

@[simp] theorem opField_wordNNN (op : BitVec 4) (nnn : Addr12) : opField (wordNNN op nnn) = op := by
  refine BitVec.eq_of_toNat_eq ?_
  have := nnn.isLt
  rw [opField_toNat, wordNNN_toNat]
  omega

@[simp] theorem nnnField_wordNNN (op : BitVec 4) (nnn : Addr12) : nnnField (wordNNN op nnn) = nnn := by
  refine BitVec.eq_of_toNat_eq ?_
  have := nnn.isLt
  rw [nnnField_toNat, wordNNN_toNat]
  omega

@[simp] theorem opField_wordXKK (op : BitVec 4) (x : RegIdx) (kk : Byte) :
    opField (wordXKK op x kk) = op := by
  refine BitVec.eq_of_toNat_eq ?_
  have := kk.isLt
  rw [opField_toNat, wordXKK_toNat]
  omega

@[simp] theorem xField_wordXKK (op : BitVec 4) (x : RegIdx) (kk : Byte) :
    xField (wordXKK op x kk) = x := by
  refine Fin.ext ?_
  have := kk.isLt
  rw [xField_val, wordXKK_toNat]
  omega

@[simp] theorem kkField_wordXKK (op : BitVec 4) (x : RegIdx) (kk : Byte) :
    kkField (wordXKK op x kk) = kk := by
  refine BitVec.eq_of_toNat_eq ?_
  have := kk.isLt
  rw [kkField_toNat, wordXKK_toNat]
  omega

/-- The last nibble of format `XKK` is that of its byte. -/
theorem nField_wordXKK (op : BitVec 4) (x : RegIdx) (kk : Byte) :
    (nField (wordXKK op x kk)).val = kk.toNat % 16 := by
  rw [nField_val, wordXKK_toNat]
  omega

@[simp] theorem opField_wordXYN (op : BitVec 4) (x y : RegIdx) (n : Fin 16) :
    opField (wordXYN op x y n) = op := by
  refine BitVec.eq_of_toNat_eq ?_
  rw [opField_toNat, wordXYN_toNat]
  omega

@[simp] theorem xField_wordXYN (op : BitVec 4) (x y : RegIdx) (n : Fin 16) :
    xField (wordXYN op x y n) = x := by
  refine Fin.ext ?_
  rw [xField_val, wordXYN_toNat]
  omega

@[simp] theorem yField_wordXYN (op : BitVec 4) (x y : RegIdx) (n : Fin 16) :
    yField (wordXYN op x y n) = y := by
  refine Fin.ext ?_
  rw [yField_val, wordXYN_toNat]
  omega

@[simp] theorem nField_wordXYN (op : BitVec 4) (x y : RegIdx) (n : Fin 16) :
    nField (wordXYN op x y n) = n := by
  refine Fin.ext ?_
  rw [nField_val, wordXYN_toNat]
  omega

end Sys2Proof
end

