-- ==== Sys2Proof/Laws/State.lean ====
section
/-! SUPPORT. One lemma a field an update, so that no proof unfolds a record update. -/

namespace Sys2Proof.Machine

variable (s : State)

/-! ## `setReg` -/

@[simp] theorem State.setReg_V (x : RegIdx) (v : Byte) : (s.setReg x v).V = s.V.set x v := rfl
@[simp] theorem State.setReg_I (x : RegIdx) (v : Byte) : (s.setReg x v).I = s.I := rfl
@[simp] theorem State.setReg_pc (x : RegIdx) (v : Byte) : (s.setReg x v).pc = s.pc := rfl
@[simp] theorem State.setReg_sp (x : RegIdx) (v : Byte) : (s.setReg x v).sp = s.sp := rfl
@[simp] theorem State.setReg_stack (x : RegIdx) (v : Byte) : (s.setReg x v).stack = s.stack := rfl
@[simp] theorem State.setReg_DT (x : RegIdx) (v : Byte) : (s.setReg x v).DT = s.DT := rfl
@[simp] theorem State.setReg_ST (x : RegIdx) (v : Byte) : (s.setReg x v).ST = s.ST := rfl
@[simp] theorem State.setReg_key (x : RegIdx) (v : Byte) : (s.setReg x v).key = s.key := rfl
@[simp] theorem State.setReg_fb (x : RegIdx) (v : Byte) : (s.setReg x v).fb = s.fb := rfl
@[simp] theorem State.setReg_redraw (x : RegIdx) (v : Byte) : (s.setReg x v).redraw = s.redraw := rfl
@[simp] theorem State.setReg_fault (x : RegIdx) (v : Byte) : (s.setReg x v).fault = s.fault := rfl
@[simp] theorem State.setReg_mem (x : RegIdx) (v : Byte) : (s.setReg x v).mem = s.mem := rfl
@[simp] theorem State.setReg_draws (x : RegIdx) (v : Byte) : (s.setReg x v).draws = s.draws := rfl

/-! ## `setRegAndFlag` -/

@[simp] theorem State.setRegAndFlag_V (x : RegIdx) (v c : Byte) : (s.setRegAndFlag x v c).V = (s.V.set x v).set Config.flagReg c := rfl
@[simp] theorem State.setRegAndFlag_I (x : RegIdx) (v c : Byte) : (s.setRegAndFlag x v c).I = s.I := rfl
@[simp] theorem State.setRegAndFlag_pc (x : RegIdx) (v c : Byte) : (s.setRegAndFlag x v c).pc = s.pc := rfl
@[simp] theorem State.setRegAndFlag_sp (x : RegIdx) (v c : Byte) : (s.setRegAndFlag x v c).sp = s.sp := rfl
@[simp] theorem State.setRegAndFlag_stack (x : RegIdx) (v c : Byte) : (s.setRegAndFlag x v c).stack = s.stack := rfl
@[simp] theorem State.setRegAndFlag_DT (x : RegIdx) (v c : Byte) : (s.setRegAndFlag x v c).DT = s.DT := rfl
@[simp] theorem State.setRegAndFlag_ST (x : RegIdx) (v c : Byte) : (s.setRegAndFlag x v c).ST = s.ST := rfl
@[simp] theorem State.setRegAndFlag_key (x : RegIdx) (v c : Byte) : (s.setRegAndFlag x v c).key = s.key := rfl
@[simp] theorem State.setRegAndFlag_fb (x : RegIdx) (v c : Byte) : (s.setRegAndFlag x v c).fb = s.fb := rfl
@[simp] theorem State.setRegAndFlag_redraw (x : RegIdx) (v c : Byte) : (s.setRegAndFlag x v c).redraw = s.redraw := rfl
@[simp] theorem State.setRegAndFlag_fault (x : RegIdx) (v c : Byte) : (s.setRegAndFlag x v c).fault = s.fault := rfl
@[simp] theorem State.setRegAndFlag_mem (x : RegIdx) (v c : Byte) : (s.setRegAndFlag x v c).mem = s.mem := rfl
@[simp] theorem State.setRegAndFlag_draws (x : RegIdx) (v c : Byte) : (s.setRegAndFlag x v c).draws = s.draws := rfl

/-! ## `setI` -/

@[simp] theorem State.setI_V (v : Word) : (s.setI v).V = s.V := rfl
@[simp] theorem State.setI_I (v : Word) : (s.setI v).I = v := rfl
@[simp] theorem State.setI_pc (v : Word) : (s.setI v).pc = s.pc := rfl
@[simp] theorem State.setI_sp (v : Word) : (s.setI v).sp = s.sp := rfl
@[simp] theorem State.setI_stack (v : Word) : (s.setI v).stack = s.stack := rfl
@[simp] theorem State.setI_DT (v : Word) : (s.setI v).DT = s.DT := rfl
@[simp] theorem State.setI_ST (v : Word) : (s.setI v).ST = s.ST := rfl
@[simp] theorem State.setI_key (v : Word) : (s.setI v).key = s.key := rfl
@[simp] theorem State.setI_fb (v : Word) : (s.setI v).fb = s.fb := rfl
@[simp] theorem State.setI_redraw (v : Word) : (s.setI v).redraw = s.redraw := rfl
@[simp] theorem State.setI_fault (v : Word) : (s.setI v).fault = s.fault := rfl
@[simp] theorem State.setI_mem (v : Word) : (s.setI v).mem = s.mem := rfl
@[simp] theorem State.setI_draws (v : Word) : (s.setI v).draws = s.draws := rfl
@[simp] theorem State.setI_reg (v : Word) (r : RegIdx) : (s.setI v).reg r = s.reg r := rfl

/-! ## `setDT` -/

@[simp] theorem State.setDT_V (v : Byte) : (s.setDT v).V = s.V := rfl
@[simp] theorem State.setDT_I (v : Byte) : (s.setDT v).I = s.I := rfl
@[simp] theorem State.setDT_pc (v : Byte) : (s.setDT v).pc = s.pc := rfl
@[simp] theorem State.setDT_sp (v : Byte) : (s.setDT v).sp = s.sp := rfl
@[simp] theorem State.setDT_stack (v : Byte) : (s.setDT v).stack = s.stack := rfl
@[simp] theorem State.setDT_DT (v : Byte) : (s.setDT v).DT = v := rfl
@[simp] theorem State.setDT_ST (v : Byte) : (s.setDT v).ST = s.ST := rfl
@[simp] theorem State.setDT_key (v : Byte) : (s.setDT v).key = s.key := rfl
@[simp] theorem State.setDT_fb (v : Byte) : (s.setDT v).fb = s.fb := rfl
@[simp] theorem State.setDT_redraw (v : Byte) : (s.setDT v).redraw = s.redraw := rfl
@[simp] theorem State.setDT_fault (v : Byte) : (s.setDT v).fault = s.fault := rfl
@[simp] theorem State.setDT_mem (v : Byte) : (s.setDT v).mem = s.mem := rfl
@[simp] theorem State.setDT_draws (v : Byte) : (s.setDT v).draws = s.draws := rfl
@[simp] theorem State.setDT_reg (v : Byte) (r : RegIdx) : (s.setDT v).reg r = s.reg r := rfl

/-! ## `setST` -/

@[simp] theorem State.setST_V (v : Byte) : (s.setST v).V = s.V := rfl
@[simp] theorem State.setST_I (v : Byte) : (s.setST v).I = s.I := rfl
@[simp] theorem State.setST_pc (v : Byte) : (s.setST v).pc = s.pc := rfl
@[simp] theorem State.setST_sp (v : Byte) : (s.setST v).sp = s.sp := rfl
@[simp] theorem State.setST_stack (v : Byte) : (s.setST v).stack = s.stack := rfl
@[simp] theorem State.setST_DT (v : Byte) : (s.setST v).DT = s.DT := rfl
@[simp] theorem State.setST_ST (v : Byte) : (s.setST v).ST = v := rfl
@[simp] theorem State.setST_key (v : Byte) : (s.setST v).key = s.key := rfl
@[simp] theorem State.setST_fb (v : Byte) : (s.setST v).fb = s.fb := rfl
@[simp] theorem State.setST_redraw (v : Byte) : (s.setST v).redraw = s.redraw := rfl
@[simp] theorem State.setST_fault (v : Byte) : (s.setST v).fault = s.fault := rfl
@[simp] theorem State.setST_mem (v : Byte) : (s.setST v).mem = s.mem := rfl
@[simp] theorem State.setST_draws (v : Byte) : (s.setST v).draws = s.draws := rfl
@[simp] theorem State.setST_reg (v : Byte) (r : RegIdx) : (s.setST v).reg r = s.reg r := rfl

/-! ## `setMem` -/

@[simp] theorem State.setMem_V (m : Memory) : (s.setMem m).V = s.V := rfl
@[simp] theorem State.setMem_I (m : Memory) : (s.setMem m).I = s.I := rfl
@[simp] theorem State.setMem_pc (m : Memory) : (s.setMem m).pc = s.pc := rfl
@[simp] theorem State.setMem_sp (m : Memory) : (s.setMem m).sp = s.sp := rfl
@[simp] theorem State.setMem_stack (m : Memory) : (s.setMem m).stack = s.stack := rfl
@[simp] theorem State.setMem_DT (m : Memory) : (s.setMem m).DT = s.DT := rfl
@[simp] theorem State.setMem_ST (m : Memory) : (s.setMem m).ST = s.ST := rfl
@[simp] theorem State.setMem_key (m : Memory) : (s.setMem m).key = s.key := rfl
@[simp] theorem State.setMem_fb (m : Memory) : (s.setMem m).fb = s.fb := rfl
@[simp] theorem State.setMem_redraw (m : Memory) : (s.setMem m).redraw = s.redraw := rfl
@[simp] theorem State.setMem_fault (m : Memory) : (s.setMem m).fault = s.fault := rfl
@[simp] theorem State.setMem_mem (m : Memory) : (s.setMem m).mem = m := rfl
@[simp] theorem State.setMem_draws (m : Memory) : (s.setMem m).draws = s.draws := rfl
@[simp] theorem State.setMem_reg (m : Memory) (r : RegIdx) : (s.setMem m).reg r = s.reg r := rfl

/-! ## `touchFb` -/

@[simp] theorem State.touchFb_V (g : Framebuffer) : (s.touchFb g).V = s.V := rfl
@[simp] theorem State.touchFb_I (g : Framebuffer) : (s.touchFb g).I = s.I := rfl
@[simp] theorem State.touchFb_pc (g : Framebuffer) : (s.touchFb g).pc = s.pc := rfl
@[simp] theorem State.touchFb_sp (g : Framebuffer) : (s.touchFb g).sp = s.sp := rfl
@[simp] theorem State.touchFb_stack (g : Framebuffer) : (s.touchFb g).stack = s.stack := rfl
@[simp] theorem State.touchFb_DT (g : Framebuffer) : (s.touchFb g).DT = s.DT := rfl
@[simp] theorem State.touchFb_ST (g : Framebuffer) : (s.touchFb g).ST = s.ST := rfl
@[simp] theorem State.touchFb_key (g : Framebuffer) : (s.touchFb g).key = s.key := rfl
@[simp] theorem State.touchFb_fb (g : Framebuffer) : (s.touchFb g).fb = g := rfl
@[simp] theorem State.touchFb_redraw (g : Framebuffer) : (s.touchFb g).redraw = true := rfl
@[simp] theorem State.touchFb_fault (g : Framebuffer) : (s.touchFb g).fault = s.fault := rfl
@[simp] theorem State.touchFb_mem (g : Framebuffer) : (s.touchFb g).mem = s.mem := rfl
@[simp] theorem State.touchFb_draws (g : Framebuffer) : (s.touchFb g).draws = s.draws := rfl
@[simp] theorem State.touchFb_reg (g : Framebuffer) (r : RegIdx) : (s.touchFb g).reg r = s.reg r := rfl

/-! ## `jump` -/

@[simp] theorem State.jump_V (p : Word) : (s.jump p).V = s.V := rfl
@[simp] theorem State.jump_I (p : Word) : (s.jump p).I = s.I := rfl
@[simp] theorem State.jump_pc (p : Word) : (s.jump p).pc = p := rfl
@[simp] theorem State.jump_sp (p : Word) : (s.jump p).sp = s.sp := rfl
@[simp] theorem State.jump_stack (p : Word) : (s.jump p).stack = s.stack := rfl
@[simp] theorem State.jump_DT (p : Word) : (s.jump p).DT = s.DT := rfl
@[simp] theorem State.jump_ST (p : Word) : (s.jump p).ST = s.ST := rfl
@[simp] theorem State.jump_key (p : Word) : (s.jump p).key = s.key := rfl
@[simp] theorem State.jump_fb (p : Word) : (s.jump p).fb = s.fb := rfl
@[simp] theorem State.jump_redraw (p : Word) : (s.jump p).redraw = s.redraw := rfl
@[simp] theorem State.jump_fault (p : Word) : (s.jump p).fault = s.fault := rfl
@[simp] theorem State.jump_mem (p : Word) : (s.jump p).mem = s.mem := rfl
@[simp] theorem State.jump_draws (p : Word) : (s.jump p).draws = s.draws := rfl
@[simp] theorem State.jump_reg (p : Word) (r : RegIdx) : (s.jump p).reg r = s.reg r := rfl

/-! ## `advance` -/

@[simp] theorem State.advance_V : (s.advance).V = s.V := rfl
@[simp] theorem State.advance_I : (s.advance).I = s.I := rfl
@[simp] theorem State.advance_pc : (s.advance).pc = s.pc + 2 := rfl
@[simp] theorem State.advance_sp : (s.advance).sp = s.sp := rfl
@[simp] theorem State.advance_stack : (s.advance).stack = s.stack := rfl
@[simp] theorem State.advance_DT : (s.advance).DT = s.DT := rfl
@[simp] theorem State.advance_ST : (s.advance).ST = s.ST := rfl
@[simp] theorem State.advance_key : (s.advance).key = s.key := rfl
@[simp] theorem State.advance_fb : (s.advance).fb = s.fb := rfl
@[simp] theorem State.advance_redraw : (s.advance).redraw = s.redraw := rfl
@[simp] theorem State.advance_fault : (s.advance).fault = s.fault := rfl
@[simp] theorem State.advance_mem : (s.advance).mem = s.mem := rfl
@[simp] theorem State.advance_draws : (s.advance).draws = s.draws := rfl
@[simp] theorem State.advance_reg (r : RegIdx) : (s.advance).reg r = s.reg r := rfl

/-! ## `rewind` -/

@[simp] theorem State.rewind_V : (s.rewind).V = s.V := rfl
@[simp] theorem State.rewind_I : (s.rewind).I = s.I := rfl
@[simp] theorem State.rewind_pc : (s.rewind).pc = s.pc - 2 := rfl
@[simp] theorem State.rewind_sp : (s.rewind).sp = s.sp := rfl
@[simp] theorem State.rewind_stack : (s.rewind).stack = s.stack := rfl
@[simp] theorem State.rewind_DT : (s.rewind).DT = s.DT := rfl
@[simp] theorem State.rewind_ST : (s.rewind).ST = s.ST := rfl
@[simp] theorem State.rewind_key : (s.rewind).key = s.key := rfl
@[simp] theorem State.rewind_fb : (s.rewind).fb = s.fb := rfl
@[simp] theorem State.rewind_redraw : (s.rewind).redraw = s.redraw := rfl
@[simp] theorem State.rewind_fault : (s.rewind).fault = s.fault := rfl
@[simp] theorem State.rewind_mem : (s.rewind).mem = s.mem := rfl
@[simp] theorem State.rewind_draws : (s.rewind).draws = s.draws := rfl
@[simp] theorem State.rewind_reg (r : RegIdx) : (s.rewind).reg r = s.reg r := rfl

/-! ## `push` -/

@[simp] theorem State.push_V (v : Word) : (s.push v).V = s.V := rfl
@[simp] theorem State.push_I (v : Word) : (s.push v).I = s.I := rfl
@[simp] theorem State.push_pc (v : Word) : (s.push v).pc = s.pc := rfl
@[simp] theorem State.push_sp (v : Word) : (s.push v).sp = s.sp + 1 := rfl
@[simp] theorem State.push_stack (v : Word) : (s.push v).stack = s.stack.setIfInBounds s.sp.toNat v := rfl
@[simp] theorem State.push_DT (v : Word) : (s.push v).DT = s.DT := rfl
@[simp] theorem State.push_ST (v : Word) : (s.push v).ST = s.ST := rfl
@[simp] theorem State.push_key (v : Word) : (s.push v).key = s.key := rfl
@[simp] theorem State.push_fb (v : Word) : (s.push v).fb = s.fb := rfl
@[simp] theorem State.push_redraw (v : Word) : (s.push v).redraw = s.redraw := rfl
@[simp] theorem State.push_fault (v : Word) : (s.push v).fault = s.fault := rfl
@[simp] theorem State.push_mem (v : Word) : (s.push v).mem = s.mem := rfl
@[simp] theorem State.push_draws (v : Word) : (s.push v).draws = s.draws := rfl
@[simp] theorem State.push_reg (v : Word) (r : RegIdx) : (s.push v).reg r = s.reg r := rfl

/-! ## `drop` -/

@[simp] theorem State.drop_V : (s.drop).V = s.V := rfl
@[simp] theorem State.drop_I : (s.drop).I = s.I := rfl
@[simp] theorem State.drop_pc : (s.drop).pc = s.pc := rfl
@[simp] theorem State.drop_sp : (s.drop).sp = s.sp - 1 := rfl
@[simp] theorem State.drop_stack : (s.drop).stack = s.stack := rfl
@[simp] theorem State.drop_DT : (s.drop).DT = s.DT := rfl
@[simp] theorem State.drop_ST : (s.drop).ST = s.ST := rfl
@[simp] theorem State.drop_key : (s.drop).key = s.key := rfl
@[simp] theorem State.drop_fb : (s.drop).fb = s.fb := rfl
@[simp] theorem State.drop_redraw : (s.drop).redraw = s.redraw := rfl
@[simp] theorem State.drop_fault : (s.drop).fault = s.fault := rfl
@[simp] theorem State.drop_mem : (s.drop).mem = s.mem := rfl
@[simp] theorem State.drop_draws : (s.drop).draws = s.draws := rfl
@[simp] theorem State.drop_reg (r : RegIdx) : (s.drop).reg r = s.reg r := rfl

/-! ## `countDraw` -/

@[simp] theorem State.countDraw_V : (s.countDraw).V = s.V := rfl
@[simp] theorem State.countDraw_I : (s.countDraw).I = s.I := rfl
@[simp] theorem State.countDraw_pc : (s.countDraw).pc = s.pc := rfl
@[simp] theorem State.countDraw_sp : (s.countDraw).sp = s.sp := rfl
@[simp] theorem State.countDraw_stack : (s.countDraw).stack = s.stack := rfl
@[simp] theorem State.countDraw_DT : (s.countDraw).DT = s.DT := rfl
@[simp] theorem State.countDraw_ST : (s.countDraw).ST = s.ST := rfl
@[simp] theorem State.countDraw_key : (s.countDraw).key = s.key := rfl
@[simp] theorem State.countDraw_fb : (s.countDraw).fb = s.fb := rfl
@[simp] theorem State.countDraw_redraw : (s.countDraw).redraw = s.redraw := rfl
@[simp] theorem State.countDraw_fault : (s.countDraw).fault = s.fault := rfl
@[simp] theorem State.countDraw_mem : (s.countDraw).mem = s.mem := rfl
@[simp] theorem State.countDraw_draws : (s.countDraw).draws = s.draws + 1 := rfl
@[simp] theorem State.countDraw_reg (r : RegIdx) : (s.countDraw).reg r = s.reg r := rfl

/-! ## `takeFault` -/

@[simp] theorem State.takeFault_V (c : FaultCause) (n : Nat) : (s.takeFault c n).V = s.V := rfl
@[simp] theorem State.takeFault_I (c : FaultCause) (n : Nat) : (s.takeFault c n).I = s.I := rfl
@[simp] theorem State.takeFault_pc (c : FaultCause) (n : Nat) : (s.takeFault c n).pc = s.pc := rfl
@[simp] theorem State.takeFault_sp (c : FaultCause) (n : Nat) : (s.takeFault c n).sp = s.sp := rfl
@[simp] theorem State.takeFault_stack (c : FaultCause) (n : Nat) : (s.takeFault c n).stack = s.stack := rfl
@[simp] theorem State.takeFault_DT (c : FaultCause) (n : Nat) : (s.takeFault c n).DT = s.DT := rfl
@[simp] theorem State.takeFault_ST (c : FaultCause) (n : Nat) : (s.takeFault c n).ST = s.ST := rfl
@[simp] theorem State.takeFault_key (c : FaultCause) (n : Nat) : (s.takeFault c n).key = s.key := rfl
@[simp] theorem State.takeFault_fb (c : FaultCause) (n : Nat) : (s.takeFault c n).fb = s.fb := rfl
@[simp] theorem State.takeFault_redraw (c : FaultCause) (n : Nat) : (s.takeFault c n).redraw = s.redraw := rfl
@[simp] theorem State.takeFault_fault (c : FaultCause) (n : Nat) : (s.takeFault c n).fault = some ⟨c, s.pc, n⟩ := rfl
@[simp] theorem State.takeFault_mem (c : FaultCause) (n : Nat) : (s.takeFault c n).mem = s.mem := rfl
@[simp] theorem State.takeFault_draws (c : FaultCause) (n : Nat) : (s.takeFault c n).draws = s.draws := rfl
@[simp] theorem State.takeFault_reg (c : FaultCause) (n : Nat) (r : RegIdx) : (s.takeFault c n).reg r = s.reg r := rfl

/-! ## `loadRegs` -/

@[simp] theorem State.loadRegs_I (x : RegIdx) : (s.loadRegs x).I = s.I := rfl
@[simp] theorem State.loadRegs_pc (x : RegIdx) : (s.loadRegs x).pc = s.pc := rfl
@[simp] theorem State.loadRegs_sp (x : RegIdx) : (s.loadRegs x).sp = s.sp := rfl
@[simp] theorem State.loadRegs_stack (x : RegIdx) : (s.loadRegs x).stack = s.stack := rfl
@[simp] theorem State.loadRegs_DT (x : RegIdx) : (s.loadRegs x).DT = s.DT := rfl
@[simp] theorem State.loadRegs_ST (x : RegIdx) : (s.loadRegs x).ST = s.ST := rfl
@[simp] theorem State.loadRegs_key (x : RegIdx) : (s.loadRegs x).key = s.key := rfl
@[simp] theorem State.loadRegs_fb (x : RegIdx) : (s.loadRegs x).fb = s.fb := rfl
@[simp] theorem State.loadRegs_redraw (x : RegIdx) : (s.loadRegs x).redraw = s.redraw := rfl
@[simp] theorem State.loadRegs_fault (x : RegIdx) : (s.loadRegs x).fault = s.fault := rfl
@[simp] theorem State.loadRegs_mem (x : RegIdx) : (s.loadRegs x).mem = s.mem := rfl
@[simp] theorem State.loadRegs_draws (x : RegIdx) : (s.loadRegs x).draws = s.draws := rfl

/-! ## `skipIf` -/

@[simp] theorem State.skipIf_V (c : Bool) : (s.skipIf c).V = s.V := by cases c <;> rfl
@[simp] theorem State.skipIf_I (c : Bool) : (s.skipIf c).I = s.I := by cases c <;> rfl
@[simp] theorem State.skipIf_pc (c : Bool) : (s.skipIf c).pc = if c then s.pc + 2 else s.pc := by
  cases c <;> rfl
@[simp] theorem State.skipIf_sp (c : Bool) : (s.skipIf c).sp = s.sp := by cases c <;> rfl
@[simp] theorem State.skipIf_stack (c : Bool) : (s.skipIf c).stack = s.stack := by cases c <;> rfl
@[simp] theorem State.skipIf_DT (c : Bool) : (s.skipIf c).DT = s.DT := by cases c <;> rfl
@[simp] theorem State.skipIf_ST (c : Bool) : (s.skipIf c).ST = s.ST := by cases c <;> rfl
@[simp] theorem State.skipIf_key (c : Bool) : (s.skipIf c).key = s.key := by cases c <;> rfl
@[simp] theorem State.skipIf_fb (c : Bool) : (s.skipIf c).fb = s.fb := by cases c <;> rfl
@[simp] theorem State.skipIf_redraw (c : Bool) : (s.skipIf c).redraw = s.redraw := by cases c <;> rfl
@[simp] theorem State.skipIf_fault (c : Bool) : (s.skipIf c).fault = s.fault := by cases c <;> rfl
@[simp] theorem State.skipIf_mem (c : Bool) : (s.skipIf c).mem = s.mem := by cases c <;> rfl
@[simp] theorem State.skipIf_draws (c : Bool) : (s.skipIf c).draws = s.draws := by cases c <;> rfl
@[simp] theorem State.skipIf_reg (c : Bool) (r : RegIdx) : (s.skipIf c).reg r = s.reg r := by
  cases c <;> rfl

/-! ## Registers after a write -/

/-- A register write is seen at its own register and nowhere else. -/
@[simp] theorem State.setReg_reg (x : RegIdx) (v : Byte) (r : RegIdx) :
    (s.setReg x v).reg r = if r = x then v else s.reg r := by
  simp only [State.reg, State.setReg, Fin.getElem_fin, Vector.getElem_set, Fin.ext_iff, eq_comm]

/-- The flag is written last: VF holds it even when `x = 0xF` (42_alu.md R130). -/
@[simp] theorem State.setRegAndFlag_reg (x : RegIdx) (v c : Byte) (r : RegIdx) :
    (s.setRegAndFlag x v c).reg r = if r = Config.flagReg then c else if r = x then v else s.reg r := by
  simp only [State.setRegAndFlag, State.setReg_reg]

/-- `loadRegs` gives the registers up to `x` the bytes from `I` upward and keeps the others. -/
@[simp] theorem State.loadRegs_reg (x r : RegIdx) :
    (s.loadRegs x).reg r = if r ≤ x then Memory.read s.mem (s.I.toNat + r.val) else s.reg r := by
  simp [State.reg, State.loadRegs]

/-! ## Host operations -/

@[simp] theorem tick_V : (tick s).V = s.V := rfl
@[simp] theorem tick_I : (tick s).I = s.I := rfl
@[simp] theorem tick_pc : (tick s).pc = s.pc := rfl
@[simp] theorem tick_sp : (tick s).sp = s.sp := rfl
@[simp] theorem tick_stack : (tick s).stack = s.stack := rfl
@[simp] theorem tick_DT : (tick s).DT = tickTimer s.DT := rfl
@[simp] theorem tick_ST : (tick s).ST = tickTimer s.ST := rfl
@[simp] theorem tick_key : (tick s).key = s.key := rfl
@[simp] theorem tick_fb : (tick s).fb = s.fb := rfl
@[simp] theorem tick_redraw : (tick s).redraw = s.redraw := rfl
@[simp] theorem tick_fault : (tick s).fault = s.fault := rfl
@[simp] theorem tick_mem : (tick s).mem = s.mem := rfl
@[simp] theorem tick_draws : (tick s).draws = s.draws := rfl
@[simp] theorem tick_reg (r : RegIdx) : (tick s).reg r = s.reg r := rfl

@[simp] theorem writeKey_V (k : RegIdx) (b : Bool) : (writeKey k b s).V = s.V := rfl
@[simp] theorem writeKey_I (k : RegIdx) (b : Bool) : (writeKey k b s).I = s.I := rfl
@[simp] theorem writeKey_pc (k : RegIdx) (b : Bool) : (writeKey k b s).pc = s.pc := rfl
@[simp] theorem writeKey_sp (k : RegIdx) (b : Bool) : (writeKey k b s).sp = s.sp := rfl
@[simp] theorem writeKey_stack (k : RegIdx) (b : Bool) : (writeKey k b s).stack = s.stack := rfl
@[simp] theorem writeKey_DT (k : RegIdx) (b : Bool) : (writeKey k b s).DT = s.DT := rfl
@[simp] theorem writeKey_ST (k : RegIdx) (b : Bool) : (writeKey k b s).ST = s.ST := rfl
@[simp] theorem writeKey_key (k : RegIdx) (b : Bool) : (writeKey k b s).key = s.key.set k b := rfl
@[simp] theorem writeKey_fb (k : RegIdx) (b : Bool) : (writeKey k b s).fb = s.fb := rfl
@[simp] theorem writeKey_redraw (k : RegIdx) (b : Bool) : (writeKey k b s).redraw = s.redraw := rfl
@[simp] theorem writeKey_fault (k : RegIdx) (b : Bool) : (writeKey k b s).fault = s.fault := rfl
@[simp] theorem writeKey_mem (k : RegIdx) (b : Bool) : (writeKey k b s).mem = s.mem := rfl
@[simp] theorem writeKey_draws (k : RegIdx) (b : Bool) : (writeKey k b s).draws = s.draws := rfl
@[simp] theorem writeKey_reg (k : RegIdx) (b : Bool) (r : RegIdx) : (writeKey k b s).reg r = s.reg r := rfl

@[simp] theorem consumeFrame_V : (consumeFrame s).V = s.V := rfl
@[simp] theorem consumeFrame_I : (consumeFrame s).I = s.I := rfl
@[simp] theorem consumeFrame_pc : (consumeFrame s).pc = s.pc := rfl
@[simp] theorem consumeFrame_sp : (consumeFrame s).sp = s.sp := rfl
@[simp] theorem consumeFrame_stack : (consumeFrame s).stack = s.stack := rfl
@[simp] theorem consumeFrame_DT : (consumeFrame s).DT = s.DT := rfl
@[simp] theorem consumeFrame_ST : (consumeFrame s).ST = s.ST := rfl
@[simp] theorem consumeFrame_key : (consumeFrame s).key = s.key := rfl
@[simp] theorem consumeFrame_fb : (consumeFrame s).fb = s.fb := rfl
@[simp] theorem consumeFrame_redraw : (consumeFrame s).redraw = false := rfl
@[simp] theorem consumeFrame_fault : (consumeFrame s).fault = s.fault := rfl
@[simp] theorem consumeFrame_mem : (consumeFrame s).mem = s.mem := rfl
@[simp] theorem consumeFrame_draws : (consumeFrame s).draws = s.draws := rfl
@[simp] theorem consumeFrame_reg (r : RegIdx) : (consumeFrame s).reg r = s.reg r := rfl

/-! ## Reset -/

@[simp] theorem State.reset_pc : State.reset.pc = 0x200#16 := rfl
@[simp] theorem State.reset_I : State.reset.I = 0 := rfl
@[simp] theorem State.reset_sp : State.reset.sp = 0 := rfl
@[simp] theorem State.reset_DT : State.reset.DT = 0 := rfl
@[simp] theorem State.reset_ST : State.reset.ST = 0 := rfl
@[simp] theorem State.reset_redraw : State.reset.redraw = false := rfl
@[simp] theorem State.reset_fault : State.reset.fault = none := rfl
@[simp] theorem State.reset_mem : State.reset.mem = [] := rfl
@[simp] theorem State.reset_reg (r : RegIdx) : State.reset.reg r = 0 := by simp [State.reg, State.reset]
@[simp] theorem reset_V : (reset s).V = State.reset.V := rfl
@[simp] theorem reset_I : (reset s).I = State.reset.I := rfl
@[simp] theorem reset_pc : (reset s).pc = State.reset.pc := rfl
@[simp] theorem reset_sp : (reset s).sp = State.reset.sp := rfl
@[simp] theorem reset_stack : (reset s).stack = State.reset.stack := rfl
@[simp] theorem reset_DT : (reset s).DT = State.reset.DT := rfl
@[simp] theorem reset_ST : (reset s).ST = State.reset.ST := rfl
@[simp] theorem reset_key : (reset s).key = State.reset.key := rfl
@[simp] theorem reset_fb : (reset s).fb = State.reset.fb := rfl
@[simp] theorem reset_redraw : (reset s).redraw = State.reset.redraw := rfl
@[simp] theorem reset_fault : (reset s).fault = State.reset.fault := rfl
@[simp] theorem reset_mem : (reset s).mem = State.reset.mem := rfl
@[simp] theorem reset_draws : (reset s).draws = s.draws := rfl
@[simp] theorem reset_reg (r : RegIdx) : (reset s).reg r = 0 := by simp [State.reg, reset, State.reset]

end Sys2Proof.Machine
end

