-- ==== Sys2Proof/Laws/Faults.lean ====
section
/-! SUPPORT. What the shared operations that can fault do, and what one step can do. -/

namespace Sys2Proof.Machine

/-! ## Raising a fault -/

/-- A raised fault is a next state. -/
theorem raise_eq (c : FaultCause) (n : Nat) (s : State) :
    raise c n s = .next (s.rewind.takeFault c n) := rfl

/-- The state a raised fault leaves differs in the latch and `pc` alone. -/
theorem takesFault_rewind (c : FaultCause) (n : Nat) (s : State) :
    TakesFault c n s (s.rewind.takeFault c n) := by
  refine ⟨rfl, rfl, fun p hp => ?_⟩
  cases p <;> simp_all [SamePart]

/-! ## Transfers and key indices -/

/-- A transfer completes exactly when its last byte lies in memory. -/
theorem State.transfer_eq (s : State) (len : Nat) (t : State) :
    s.transfer len t =
      if 0 < len ∧ 0x1000 < s.I.toNat + len then
        .next (s.rewind.takeFault .memRange (max s.I.toNat 0x1000))
      else .next t := by
  have h : (0 < len ∧ Config.addrLimit ≤ s.I.toNat + len - 1) ↔ (0 < len ∧ 0x1000 < s.I.toNat + len) := by
    simp only [Config.addrLimit]
    omega
  simp only [State.transfer, State.transferOutside, h]
  split_ifs <;> rfl

/-- A key instruction goes on exactly when its register numbers a latch. -/
theorem State.withKey_eq (s : State) (x : RegIdx) (t : Bool → State) :
    s.withKey x t =
      if h : (s.reg x).toNat < 16 then .next (t s.key[(s.reg x).toNat])
      else .next (s.rewind.takeFault .keyRange (s.reg x).toNat) := by
  unfold State.withKey
  by_cases h : (s.reg x).toNat < 16
  · simp [h]
  · simp [h, raise_eq]

/-! ## Fetch and step -/

/-- The fetch lies outside memory exactly when `pc` passes 0xFFE; the lowest such address is
`max(pc, 0x1000)`. -/
theorem State.fetchOutside_eq (s : State) :
    s.fetchOutside = if 0xFFE < s.pc.toNat then some (max s.pc.toNat 0x1000) else none := by
  simp only [State.fetchOutside, Config.addrLimit]
  by_cases h : 0xFFE < s.pc.toNat
  · rw [if_pos h, if_pos (by omega)]
    congr 1
    split <;> omega
  · rw [if_neg h, if_neg (by omega)]

/-- A halted core steps to the same state. -/
theorem step_halted (s : State) (h : s.fault ≠ none) : step s = .next s := by
  have : s.halted = true := Option.isSome_iff_ne_none.mpr h
  simp [step, this]

/-- A running core whose fetch lies outside memory takes the fetch fault. -/
theorem step_outside (s : State) (h : s.fault = none) (hp : 0xFFE < s.pc.toNat) :
    step s = .next (s.takeFault .fetchRange (max s.pc.toNat 0x1000)) := by
  simp [step, State.halted, h, State.fetchOutside_eq, hp]

/-- A running core whose fetch lies in memory executes the word at `pc` on the advanced state. -/
theorem step_inside (s : State) (h : s.fault = none) (hp : ¬ 0xFFE < s.pc.toNat) :
    step s = exec (decode s.fetchWord) s.advance := by
  simp [step, State.halted, h, State.fetchOutside_eq, hp]

/-- All that a step to a next state can be. -/
theorem step_cases (s t : State) (h : step s = .next t) :
    (s.fault ≠ none ∧ t = s) ∨
    (s.fault = none ∧ 0xFFE < s.pc.toNat ∧ t = s.takeFault .fetchRange (max s.pc.toNat 0x1000)) ∨
    (s.fault = none ∧ ¬ 0xFFE < s.pc.toNat ∧ exec (decode s.fetchWord) s.advance = .next t) := by
  by_cases hf : s.fault = none
  · by_cases hp : 0xFFE < s.pc.toNat
    · rw [step_outside s hf hp] at h
      exact .inr (.inl ⟨hf, hp, (Host.Outcome.next.inj h).symm⟩)
    · exact .inr (.inr ⟨hf, hp, (step_inside s hf hp).symm.trans h⟩)
  · rw [step_halted s hf] at h
    exact .inl ⟨hf, (Host.Outcome.next.inj h).symm⟩

/-- `rewind` undoes `advance`. -/
@[simp] theorem State.rewind_advance (s : State) : s.advance.rewind = s := by
  simp [State.advance, State.rewind, State.jump]

end Sys2Proof.Machine
end

