-- ==== Sys2Proof/Laws/Meanings.lean ====
section
/-! SUPPORT. The instructions with a branch: everything each of them can answer, by numbers. -/

namespace Sys2Proof.Machine

/-- RET: the underflow fault, a pop, or the stop above 16 that no run meets. -/
theorem exec_ret_eq (s : State) :
    exec .ret s =
      if s.sp.toNat = 0 then .next (s.rewind.takeFault .stackUnderflow 0)
      else if h : s.sp.toNat - 1 < 16 then .next (s.drop.jump s.stack[s.sp.toNat - 1])
      else .fault .stackPointerOutOfRange := by
  have hz : s.sp = 0 ↔ s.sp.toNat = 0 :=
    ⟨fun h => by simp [h], fun h => BitVec.eq_of_toNat_eq (by simpa using h)⟩
  simp only [exec, execRet, hz, State.stackAt]
  split_ifs with h0 h1
  · rfl
  · simp [h1]
  · simp [h1]

/-- CALL: the overflow fault, or a push and a jump. -/
theorem exec_call_eq (nnn : Addr12) (s : State) :
    exec (.call nnn) s =
      if 16 ≤ s.sp.toNat then .next (s.rewind.takeFault .stackOverflow s.sp.toNat)
      else .next ((s.push s.pc).jump (addrOf nnn)) := rfl

/-- SKP: the key fault, or a skip when the latch is set. -/
theorem exec_skp_eq (x : RegIdx) (s : State) :
    exec (.skp x) s =
      if h : (s.reg x).toNat < 16 then .next (s.skipIf s.key[(s.reg x).toNat])
      else .next (s.rewind.takeFault .keyRange (s.reg x).toNat) := s.withKey_eq x _

/-- SKNP: the key fault, or a skip when the latch is clear. -/
theorem exec_sknp_eq (x : RegIdx) (s : State) :
    exec (.sknp x) s =
      if h : (s.reg x).toNat < 16 then .next (s.skipIf (!s.key[(s.reg x).toNat]))
      else .next (s.rewind.takeFault .keyRange (s.reg x).toNat) := s.withKey_eq x _

/-- LD Vx, K: the least key down, or the spin. -/
theorem exec_ldVxK_eq (x : RegIdx) (s : State) :
    exec (.ldVxK x) s = .next ((s.leastKey.map fun k => s.setReg x (trunc8 k.val)).getD s.rewind) := by
  simp only [exec, execLdVxK]
  cases s.leastKey <;> rfl

/-- LD B: the memory fault, or the three digits written. -/
theorem exec_ldB_eq (x : RegIdx) (s : State) :
    exec (.ldB x) s =
      if 0 < 3 ∧ 0x1000 < s.I.toNat + 3 then
        .next (s.rewind.takeFault .memRange (max s.I.toNat 0x1000))
      else .next (s.setMem (Memory.writeBytes s.mem s.I.toNat (bcdDigits (s.reg x)))) :=
  s.transfer_eq 3 _

/-- LD [I], Vx: the memory fault, or the registers written. -/
theorem exec_ldMemVx_eq (x : RegIdx) (s : State) :
    exec (.ldMemVx x) s =
      if 0 < x.val + 1 ∧ 0x1000 < s.I.toNat + (x.val + 1) then
        .next (s.rewind.takeFault .memRange (max s.I.toNat 0x1000))
      else .next (s.setMem (Memory.writeBytes s.mem s.I.toNat (s.regsUpTo x))) :=
  s.transfer_eq (x.val + 1) _

/-- LD Vx, [I]: the memory fault, or the registers loaded. -/
theorem exec_ldVxMem_eq (x : RegIdx) (s : State) :
    exec (.ldVxMem x) s =
      if 0 < x.val + 1 ∧ 0x1000 < s.I.toNat + (x.val + 1) then
        .next (s.rewind.takeFault .memRange (max s.I.toNat 0x1000))
      else .next (s.loadRegs x) := s.transfer_eq (x.val + 1) _

/-- The canvas that a DRW leaves. -/
def drawnCanvas (x y : RegIdx) (n : Fin 16) (s : State) : Canvas :=
  drawSprite s.mem s.I.toNat ((s.reg x).toNat % 64) ((s.reg y).toNat % 32) n.val s.fb

/-- DRW: the memory fault, or the pixels and then VF written. -/
theorem exec_drw_eq (x y : RegIdx) (n : Fin 16) (s : State) :
    exec (.drw x y n) s =
      if 0 < n.val ∧ 0x1000 < s.I.toNat + n.val then
        .next (s.rewind.takeFault .memRange (max s.I.toNat 0x1000))
      else .next ((s.touchFb (drawnCanvas x y n s).1).setReg Config.flagReg
        (flagByte (drawnCanvas x y n s).2)) := s.transfer_eq n.val _

/-- The length of the registers stored by Fx55. -/
@[simp] theorem State.regsUpTo_length (s : State) (x : RegIdx) : (s.regsUpTo x).length = x.val + 1 := by
  simp [State.regsUpTo]

/-- Register `k` stands at place `k` of the registers stored by Fx55. -/
theorem State.regsUpTo_getD (s : State) (x r : RegIdx) (h : r ≤ x) :
    (s.regsUpTo x).getD r.val 0 = s.reg r := by
  have : r.val < x.val + 1 := Nat.lt_succ_of_le h
  simp [State.regsUpTo, State.reg, this]

/-! ## Flags and keys -/

@[simp] theorem flagByte_eq_one (c : Bool) : flagByte c = 1 ↔ c = true := by cases c <;> decide

@[simp] theorem flagByte_eq_zero (c : Bool) : flagByte c = 0 ↔ c = false := by cases c <;> decide

/-- There is no least key exactly when no key is down. -/
theorem State.leastKey_eq_none (s : State) : s.leastKey = none ↔ ∀ k : Fin 16, s.key[k] = false := by
  simp [State.leastKey]

/-- The least key is the one that is down with none below it down. -/
theorem State.leastKey_eq_some (s : State) (k : Fin 16) :
    s.leastKey = some k ↔ s.key[k] = true ∧ ∀ j : Fin 16, j < k → s.key[j] = false := by
  have sorted : (List.finRange 16).Pairwise (· < ·) := by decide
  rw [State.leastKey, List.find?_eq_some_iff_append]
  constructor
  · rintro ⟨hk, as, bs, hab, has⟩
    refine ⟨hk, fun j hj => ?_⟩
    have hmem : j ∈ as ++ k :: bs := hab ▸ List.mem_finRange j
    rw [hab, List.pairwise_append, List.pairwise_cons] at sorted
    rcases List.mem_append.mp hmem with h | h
    · simpa using has j h
    · rcases List.mem_cons.mp h with rfl | h
      · exact absurd hj (lt_irrefl _)
      · exact absurd hj (lt_asymm (sorted.2.1.1 j h))
  · rintro ⟨hk, hj⟩
    obtain ⟨as, bs, hab⟩ := List.append_of_mem (List.mem_finRange k)
    rw [hab, List.pairwise_append] at sorted
    exact ⟨hk, as, bs, hab, fun j h => by simp [hj j (sorted.2.2 j h k (List.mem_cons_self ..))]⟩

end Sys2Proof.Machine
end

