-- ==== Sys2Proof/Laws/Memory.lean ====
section
/-! SUPPORT. Memory: what a read sees after a write, and that every operation keeps the canonical form. -/

namespace Sys2Proof.Machine

/-! ## The canonical form -/

@[simp] theorem Memory.wf_nil : Memory.wf [] = true := rfl

/-- The canonical form of a list with a first cell. -/
@[simp] theorem Memory.wf_cons (a : Nat) (v : Byte) (m : Memory) :
    Memory.wf ((a, v) :: m) = true ↔
      a < 0x1000 ∧ v ≠ resetByte a ∧ (∀ c ∈ m, a < c.1) ∧ Memory.wf m = true := by
  simp [Memory.wf, and_assoc]

/-- An address below every listed one reads as the reset contents. -/
theorem Memory.read_below (m : Memory) (a : Nat) (h : ∀ c ∈ m, a < c.1) :
    Memory.read m a = resetByte a := by
  induction m with
  | nil => rfl
  | cons c m ih =>
    have hc : a ≠ c.1 := Nat.ne_of_lt (h c (List.mem_cons_self ..))
    simp only [Memory.read, if_neg hc]
    exact ih fun d hd => h d (List.mem_cons_of_mem _ hd)

/-- The cells of a list after a put: old ones, or the one put. -/
theorem Memory.mem_put (m : Memory) (a : Nat) (v : Byte) (c : Host.Cell) (h : c ∈ Memory.put m a v) :
    c = (a, v) ∨ c ∈ m := by
  induction m with
  | nil => by_cases hv : v = resetByte a <;> simp_all [Memory.put]
  | cons d m ih =>
    obtain ⟨b, u⟩ := d
    simp only [Memory.put] at h
    split_ifs at h
    · exact .inr h
    · rcases List.mem_cons.mp h with h | h
      · exact .inl h
      · exact .inr h
    · exact .inr (List.mem_cons_of_mem _ h)
    · rcases List.mem_cons.mp h with h | h
      · exact .inl h
      · exact .inr (List.mem_cons_of_mem _ h)
    · rcases List.mem_cons.mp h with h | h
      · exact .inr (h ▸ List.mem_cons_self ..)
      · exact (ih h).imp_right (List.mem_cons_of_mem _)

/-- A put keeps the canonical form. -/
theorem Memory.wf_put (m : Memory) (hm : Memory.wf m = true) (a : Nat) (ha : a < 0x1000) (v : Byte) :
    Memory.wf (Memory.put m a v) = true := by
  induction m with
  | nil => by_cases hv : v = resetByte a <;> simp [Memory.put, hv, ha]
  | cons d m ih =>
    obtain ⟨b, u⟩ := d
    obtain ⟨hb, hu, hlt, hw⟩ := (Memory.wf_cons b u m).mp hm
    simp only [Memory.put]
    split_ifs with h1 h2 h3 h4
    · exact hm
    · refine (Memory.wf_cons a v _).mpr ⟨ha, h2, ?_, hm⟩
      rintro c (_ | ⟨_, hc⟩)
      · exact h1
      · exact Nat.lt_trans h1 (hlt c hc)
    · exact hw
    · subst h3
      exact (Memory.wf_cons a v m).mpr ⟨ha, h4, hlt, hw⟩
    · refine (Memory.wf_cons b u _).mpr ⟨hb, hu, fun c hc => ?_, ih hw⟩
      rcases Memory.mem_put m a v c hc with rfl | hc
      · show b < a
        omega
      · exact hlt c hc

/-- A write keeps the canonical form. -/
theorem Memory.wf_write (m : Memory) (hm : Memory.wf m = true) (a : Nat) (v : Byte) :
    Memory.wf (Memory.write m a v) = true := by
  unfold Memory.write
  split
  · exact Memory.wf_put m hm a ‹_› v
  · exact hm

/-- A write of several bytes keeps the canonical form. -/
theorem Memory.wf_writeBytes (m : Memory) (hm : Memory.wf m = true) (a : Nat) (vs : List Byte) :
    Memory.wf (Memory.writeBytes m a vs) = true := by
  induction vs generalizing m a with
  | nil => exact hm
  | cons v vs ih => exact ih _ (Memory.wf_write m hm a v) _

/-! ## What a read sees -/

/-- A cell put is seen at its address and nowhere else. -/
theorem Memory.read_put (m : Memory) (hm : Memory.wf m = true) (a : Nat) (v : Byte) (b : Nat) :
    Memory.read (Memory.put m a v) b = if b = a then v else Memory.read m b := by
  induction m with
  | nil =>
    by_cases hv : v = resetByte a
    · by_cases hb : b = a <;> simp [Memory.put, Memory.read, hv, hb]
    · simp [Memory.put, Memory.read, hv]
  | cons d m ih =>
    obtain ⟨c, u⟩ := d
    obtain ⟨-, -, hlt, hw⟩ := (Memory.wf_cons c u m).mp hm
    have below : ∀ e, e ≤ c → Memory.read m e = resetByte e := fun e he =>
      Memory.read_below m e fun d hd => Nat.lt_of_le_of_lt he (hlt d hd)
    rcases Nat.lt_trichotomy a c with hac | rfl | hca
    · by_cases hv : v = resetByte a <;> by_cases hb : b = a <;>
        simp [Memory.put, Memory.read, hac, hv, hb, Nat.ne_of_lt hac, below a (Nat.le_of_lt hac)]
    · by_cases hv : v = resetByte a <;> by_cases hb : b = a <;>
        simp [Memory.put, Memory.read, hv, hb, below a (Nat.le_refl a)]
    · by_cases hb : b = c
      · simp [Memory.put, Memory.read, hb, Nat.not_lt_of_lt hca, Nat.ne_of_gt hca, Nat.ne_of_lt hca]
      · simp [Memory.put, Memory.read, hb, ih hw, Nat.not_lt_of_lt hca, Nat.ne_of_gt hca]

/-- A byte written inside memory is seen at its address and nowhere else. -/
theorem Memory.read_write (m : Memory) (hm : Memory.wf m = true) (a : Nat) (ha : a < 0x1000) (v : Byte)
    (b : Nat) : Memory.read (Memory.write m a v) b = if b = a then v else Memory.read m b := by
  simp only [Memory.write, if_pos ha, Memory.read_put m hm]

/-- Bytes written inside memory are seen at ascending addresses from the first, and nowhere else. -/
theorem Memory.read_writeBytes (m : Memory) (hm : Memory.wf m = true) (a : Nat) (vs : List Byte)
    (h : a + vs.length ≤ 0x1000) (b : Nat) :
    Memory.read (Memory.writeBytes m a vs) b =
      if a ≤ b ∧ b < a + vs.length then vs.getD (b - a) 0 else Memory.read m b := by
  induction vs generalizing m a with
  | nil =>
    rw [if_neg (by simp only [List.length_nil]; omega)]
    rfl
  | cons v vs ih =>
    simp only [List.length_cons] at h ⊢
    rw [Memory.writeBytes, ih _ (Memory.wf_write m hm a v) _ (by omega), Memory.read_write m hm a (by omega)]
    by_cases hb : b = a
    · subst hb
      simp
    · by_cases hr : a + 1 ≤ b ∧ b < a + 1 + vs.length
      · obtain ⟨k, rfl⟩ : ∃ k, b = a + 1 + k := ⟨b - (a + 1), by omega⟩
        rw [if_pos hr, if_pos (by omega), show a + 1 + k - (a + 1) = k by omega,
          show a + 1 + k - a = k + 1 by omega, List.getD_cons_succ]
      · rw [if_neg hr, if_neg hb, if_neg (by omega)]

/-! ## Equal reads are equal memories -/

/-- In canonical form, the cell listed first is the lowest address that differs from the reset
contents. -/
theorem Memory.read_head (a : Nat) (v : Byte) (m : Memory) : Memory.read ((a, v) :: m) a = v := by
  simp [Memory.read]

/-- Two memories in canonical form that read alike everywhere are the same list. -/
theorem Memory.ext_read (m₁ m₂ : Memory) (h₁ : Memory.wf m₁ = true) (h₂ : Memory.wf m₂ = true)
    (h : ∀ a, Memory.read m₁ a = Memory.read m₂ a) : m₁ = m₂ := by
  induction m₁ generalizing m₂ with
  | nil =>
    cases m₂ with
    | nil => rfl
    | cons c m₂ =>
      obtain ⟨b, u⟩ := c
      exact absurd ((h b).trans (Memory.read_head b u m₂)).symm ((Memory.wf_cons ..).mp h₂).2.1
  | cons c m₁ ih =>
    obtain ⟨a, v⟩ := c
    obtain ⟨-, hv, hlt₁, hw₁⟩ := (Memory.wf_cons ..).mp h₁
    cases m₂ with
    | nil => exact absurd ((Memory.read_head a v m₁).symm.trans (h a)) hv
    | cons d m₂ =>
      obtain ⟨b, u⟩ := d
      obtain ⟨-, hu, hlt₂, hw₂⟩ := (Memory.wf_cons ..).mp h₂
      have hab : a = b := by
        rcases Nat.lt_trichotomy a b with hlt | heq | hlt
        · refine absurd ((Memory.read_head a v m₁).symm.trans ((h a).trans (Memory.read_below _ a ?_))) hv
          rintro e (_ | ⟨_, he⟩)
          · exact hlt
          · exact Nat.lt_trans hlt (hlt₂ e he)
        · exact heq
        · refine absurd ((Memory.read_head b u m₂).symm.trans ((h b).symm.trans (Memory.read_below _ b ?_))) hu
          rintro e (_ | ⟨_, he⟩)
          · exact hlt
          · exact Nat.lt_trans hlt (hlt₁ e he)
      subst hab
      have huv : v = u := by simpa [Memory.read] using h a
      subst huv
      rw [ih m₂ hw₁ hw₂ fun e => ?_]
      by_cases he : e = a
      · subst he
        rw [Memory.read_below m₁ e hlt₁, Memory.read_below m₂ e hlt₂]
      · simpa [Memory.read, he] using h e

end Sys2Proof.Machine
end

