-- ==== Sys2Proof/Laws/PerInstr.lean ====
section
/-! SUPPORT. The per-instruction family `EncodeFamily`: the word of an instruction lies in the family that
30_encoding.md R83 gives its class. -/

namespace Sys2Proof

/-- The values of `w[15:12]` that R83 gives a mnemonic; NOP is reached through the sub-tables of families
0, 8, E and F (R83, R88). -/
def Mnemonic.families : Mnemonic → List (BitVec 4)
  | .CLS | .RET => [0x0]
  | .JP => [0x1]
  | .CALL => [0x2]
  | .SE_IMM => [0x3]
  | .SNE_IMM => [0x4]
  | .SE_REG => [0x5]
  | .LD_IMM => [0x6]
  | .ADD_IMM => [0x7]
  | .LD_REG | .OR | .AND | .XOR | .ADD_REG | .SUB | .SHR | .SUBN | .SHL => [0x8]
  | .SNE_REG => [0x9]
  | .LD_I => [0xA]
  | .JP_V0 => [0xB]
  | .RND => [0xC]
  | .DRW => [0xD]
  | .SKP | .SKNP => [0xE]
  | .LD_VX_DT | .LD_VX_K | .LD_DT_VX | .LD_ST_VX | .ADD_I | .LD_F | .LD_B | .LD_MEM_VX | .LD_VX_MEM => [0xF]
  | .NOP => [0x0, 0x8, 0xE, 0xF]

/-- An unmapped word lies in family 0, 8, E or F. -/
theorem opField_of_unmapped (w : Word) (h : unmapped w = true) :
    opField w ∈ [(0x0 : BitVec 4), 0x8, 0xE, 0xF] := by
  have hop := opField_toNat w
  simp only [unmapped, Bool.or_eq_true, Bool.and_eq_true, beq_iff_eq] at h
  simp only [List.mem_cons, List.not_mem_nil, or_false, ← BitVec.toNat_inj, BitVec.reduceToNat]
  omega

end Sys2Proof

/-- The top nibble of the encoding of a well-formed instruction is one of its class's (R83). -/
def Sys2Proof.Laws.EncodeFamily.Statement (i : Sys2Proof.Instr) : Prop :=
  Sys2Proof.Instr.WellFormed i = true → Sys2Proof.opField (Sys2Proof.encode i) ∈ i.mnemonic.families

namespace Sys2Proof.Laws

theorem EncodeFamily.cls : EncodeFamily.Statement .cls := fun _ => List.mem_singleton.mpr rfl

theorem EncodeFamily.ret : EncodeFamily.Statement .ret := fun _ => List.mem_singleton.mpr rfl

theorem EncodeFamily.jp (nnn : Addr12) : EncodeFamily.Statement (.jp nnn) := fun _ =>
  List.mem_singleton.mpr (opField_wordNNN 0x1 nnn)

theorem EncodeFamily.call (nnn : Addr12) : EncodeFamily.Statement (.call nnn) := fun _ =>
  List.mem_singleton.mpr (opField_wordNNN 0x2 nnn)

theorem EncodeFamily.seImm (x : RegIdx) (kk : Byte) : EncodeFamily.Statement (.seImm x kk) := fun _ =>
  List.mem_singleton.mpr (opField_wordXKK 0x3 x kk)

theorem EncodeFamily.sneImm (x : RegIdx) (kk : Byte) : EncodeFamily.Statement (.sneImm x kk) := fun _ =>
  List.mem_singleton.mpr (opField_wordXKK 0x4 x kk)

theorem EncodeFamily.seReg (x y : RegIdx) : EncodeFamily.Statement (.seReg x y) := fun _ =>
  List.mem_singleton.mpr (opField_wordXYN 0x5 x y 0x0)

theorem EncodeFamily.ldImm (x : RegIdx) (kk : Byte) : EncodeFamily.Statement (.ldImm x kk) := fun _ =>
  List.mem_singleton.mpr (opField_wordXKK 0x6 x kk)

theorem EncodeFamily.addImm (x : RegIdx) (kk : Byte) : EncodeFamily.Statement (.addImm x kk) := fun _ =>
  List.mem_singleton.mpr (opField_wordXKK 0x7 x kk)

theorem EncodeFamily.ldReg (x y : RegIdx) : EncodeFamily.Statement (.ldReg x y) := fun _ =>
  List.mem_singleton.mpr (opField_wordXYN 0x8 x y 0x0)

theorem EncodeFamily.or (x y : RegIdx) : EncodeFamily.Statement (.or x y) := fun _ =>
  List.mem_singleton.mpr (opField_wordXYN 0x8 x y 0x1)

theorem EncodeFamily.and (x y : RegIdx) : EncodeFamily.Statement (.and x y) := fun _ =>
  List.mem_singleton.mpr (opField_wordXYN 0x8 x y 0x2)

theorem EncodeFamily.xor (x y : RegIdx) : EncodeFamily.Statement (.xor x y) := fun _ =>
  List.mem_singleton.mpr (opField_wordXYN 0x8 x y 0x3)

theorem EncodeFamily.addReg (x y : RegIdx) : EncodeFamily.Statement (.addReg x y) := fun _ =>
  List.mem_singleton.mpr (opField_wordXYN 0x8 x y 0x4)

theorem EncodeFamily.sub (x y : RegIdx) : EncodeFamily.Statement (.sub x y) := fun _ =>
  List.mem_singleton.mpr (opField_wordXYN 0x8 x y 0x5)

theorem EncodeFamily.shr (x y : RegIdx) : EncodeFamily.Statement (.shr x y) := fun _ =>
  List.mem_singleton.mpr (opField_wordXYN 0x8 x y 0x6)

theorem EncodeFamily.subn (x y : RegIdx) : EncodeFamily.Statement (.subn x y) := fun _ =>
  List.mem_singleton.mpr (opField_wordXYN 0x8 x y 0x7)

theorem EncodeFamily.shl (x y : RegIdx) : EncodeFamily.Statement (.shl x y) := fun _ =>
  List.mem_singleton.mpr (opField_wordXYN 0x8 x y 0xE)

theorem EncodeFamily.sneReg (x y : RegIdx) : EncodeFamily.Statement (.sneReg x y) := fun _ =>
  List.mem_singleton.mpr (opField_wordXYN 0x9 x y 0x0)

theorem EncodeFamily.ldI (nnn : Addr12) : EncodeFamily.Statement (.ldI nnn) := fun _ =>
  List.mem_singleton.mpr (opField_wordNNN 0xA nnn)

theorem EncodeFamily.jpV0 (nnn : Addr12) : EncodeFamily.Statement (.jpV0 nnn) := fun _ =>
  List.mem_singleton.mpr (opField_wordNNN 0xB nnn)

theorem EncodeFamily.rnd (x : RegIdx) (kk : Byte) : EncodeFamily.Statement (.rnd x kk) := fun _ =>
  List.mem_singleton.mpr (opField_wordXKK 0xC x kk)

theorem EncodeFamily.drw (x y : RegIdx) (n : Fin 16) : EncodeFamily.Statement (.drw x y n) := fun _ =>
  List.mem_singleton.mpr (opField_wordXYN 0xD x y n)

theorem EncodeFamily.skp (x : RegIdx) : EncodeFamily.Statement (.skp x) := fun _ =>
  List.mem_singleton.mpr (opField_wordXKK 0xE x 0x9E)

theorem EncodeFamily.sknp (x : RegIdx) : EncodeFamily.Statement (.sknp x) := fun _ =>
  List.mem_singleton.mpr (opField_wordXKK 0xE x 0xA1)

theorem EncodeFamily.ldVxDt (x : RegIdx) : EncodeFamily.Statement (.ldVxDt x) := fun _ =>
  List.mem_singleton.mpr (opField_wordXKK 0xF x 0x07)

theorem EncodeFamily.ldVxK (x : RegIdx) : EncodeFamily.Statement (.ldVxK x) := fun _ =>
  List.mem_singleton.mpr (opField_wordXKK 0xF x 0x0A)

theorem EncodeFamily.ldDtVx (x : RegIdx) : EncodeFamily.Statement (.ldDtVx x) := fun _ =>
  List.mem_singleton.mpr (opField_wordXKK 0xF x 0x15)

theorem EncodeFamily.ldStVx (x : RegIdx) : EncodeFamily.Statement (.ldStVx x) := fun _ =>
  List.mem_singleton.mpr (opField_wordXKK 0xF x 0x18)

theorem EncodeFamily.addI (x : RegIdx) : EncodeFamily.Statement (.addI x) := fun _ =>
  List.mem_singleton.mpr (opField_wordXKK 0xF x 0x1E)

theorem EncodeFamily.ldF (x : RegIdx) : EncodeFamily.Statement (.ldF x) := fun _ =>
  List.mem_singleton.mpr (opField_wordXKK 0xF x 0x29)

theorem EncodeFamily.ldB (x : RegIdx) : EncodeFamily.Statement (.ldB x) := fun _ =>
  List.mem_singleton.mpr (opField_wordXKK 0xF x 0x33)

theorem EncodeFamily.ldMemVx (x : RegIdx) : EncodeFamily.Statement (.ldMemVx x) := fun _ =>
  List.mem_singleton.mpr (opField_wordXKK 0xF x 0x55)

theorem EncodeFamily.ldVxMem (x : RegIdx) : EncodeFamily.Statement (.ldVxMem x) := fun _ =>
  List.mem_singleton.mpr (opField_wordXKK 0xF x 0x65)

theorem EncodeFamily.nop (word : Word) : EncodeFamily.Statement (.nop word) := fun h =>
  opField_of_unmapped word h

end Sys2Proof.Laws
end

