-- ==== Sys2Proof/Laws/Step.lean ====
section
/-! SUPPORT. The placing of one instruction: the very next step runs it. -/

namespace Sys2Proof.Machine

/-- The two bytes of a word written inside memory are read back as the word. -/
theorem fetch_of_written (m : Memory) (hm : Memory.wf m = true) (a : Nat) (ha : a + 2 ≤ 0x1000) (w : Word) :
    wordOfBytes (Memory.read (Memory.writeBytes m a [firstByte w, secondByte w]) a)
      (Memory.read (Memory.writeBytes m a [firstByte w, secondByte w]) (a + 1)) = w := by
  rw [Memory.read_writeBytes m hm a _ (by simpa using ha), Memory.read_writeBytes m hm a _ (by simpa using ha)]
  simp

/-- `withWordAtPc` leaves a running core whose fetch at `pc` gives the word. -/
theorem State.withWordAtPc_fetches (s : State) (hm : Memory.wf s.mem = true) (w : Word) :
    (s.withWordAtPc w).fault = none ∧ (s.withWordAtPc w).fetchOutside = none ∧
      (s.withWordAtPc w).fetchWord = w := by
  have hout : ({ s with fault := none } : State).fetchOutside = s.fetchOutside := rfl
  by_cases hp : 0xFFE < s.pc.toNat
  · have hs : s.fetchOutside.isSome = true := by simp [State.fetchOutside_eq, hp]
    have heq : s.withWordAtPc w =
        (({ s with fault := none } : State).jump 0x200#16).setMem
          (Memory.writeBytes s.mem 0x200 [firstByte w, secondByte w]) := by
      simp only [State.withWordAtPc, hout, hs, if_true]
      rfl
    rw [heq]
    exact ⟨rfl, rfl, fetch_of_written s.mem hm 0x200 (by decide) w⟩
  · have hs : s.fetchOutside.isSome = false := by simp [State.fetchOutside_eq, hp]
    have heq : s.withWordAtPc w =
        ({ s with fault := none } : State).setMem
          (Memory.writeBytes s.mem s.pc.toNat [firstByte w, secondByte w]) := by
      simp [State.withWordAtPc, hout, hs]
    rw [heq]
    refine ⟨rfl, ?_, fetch_of_written s.mem hm s.pc.toNat (by omega) w⟩
    rw [State.fetchOutside_eq]
    exact if_neg hp

/-- The very next step after `withFetchWord` executes the instruction of the table word. -/
theorem step_withFetchWord (s : State) (hm : Memory.wf s.mem = true) (nbits w : Nat) :
    step (s.withFetchWord nbits w) =
      exec (decode (BitVec.ofNat 16 (w % 2 ^ nbits))) (s.withFetchWord nbits w).advance := by
  obtain ⟨hf, ho, hw⟩ := s.withWordAtPc_fetches hm (BitVec.ofNat 16 (w % 2 ^ nbits))
  simp only [State.withFetchWord, step, State.halted, hf, ho, hw, Option.isSome_none, Bool.false_eq_true,
    if_false]

/-- `decodeTableWord` gives what `decode` gives for the word. -/
theorem decodeTableWord_eq (nbits w : Nat) :
    decodeTableWord nbits w = some (decode (BitVec.ofNat 16 (w % 2 ^ nbits))) := by
  simp only [decodeTableWord, decodeBytes, wordOfBytes_bytes]

end Sys2Proof.Machine
end

