-- ==== Sys2Proof/Tests/Slice0.lean ====
section
/-! SUPPORT. Tests of one step each, whose expected results are the vectors of 95_test_vectors.md (named V-…
below), and for every obligation with hypotheses a named witness that meets them. -/

namespace Sys2Proof.Tests

open Sys2Proof.Machine

/-! ## Helpers -/

/-- The reset state with the word `w` at 0x300 and `pc` there: the "before" of the vectors. -/
def before (w : Word) : State := (State.reset.jump 0x300).withWordAtPc w

/-- The same with the word at `a`. -/
def beforeAt (a w : Word) : State := (State.reset.jump a).withWordAtPc w

/-- What one step leaves, if it leaves a state. -/
def after (s : State) : Option State :=
  match step s with
  | .next t => some t
  | .fault _ => none
  | .refused _ => none

/-- `I` and bytes of memory set. -/
def withBytes (s : State) (i : Word) (bytes : List Byte) : State :=
  (s.setI i).setMem (Memory.writeBytes s.mem i.toNat bytes)

/-- The pixels at the columns and rows of a list, lit. -/
def withLit (s : State) (ps : List (Nat × Nat)) : State :=
  { s with fb := ps.foldl (fun fb p => Framebuffer.flip fb p.2 p.1) s.fb }

/-- The pixels of a row from column `c`. -/
def pixelsFrom (s : State) (row c count : Nat) : List Bool :=
  (List.range count).map fun k => Framebuffer.pixel s.fb row (c + k)

/-- `sp` and the stack set. -/
def withStack (s : State) (sp : Byte) (entries : List Word) : State :=
  { s with sp := sp, stack := Vector.ofFn fun k : Fin 16 => entries.getD k.val 0 }

/-! ## Well-formedness: the one check, on every family it speaks of -/

theorem test_nop_of_a_mapped_word_is_ill_formed :
    (Instr.nop 0x00E0).WellFormed = false ∧ (Instr.nop 0x0FFE).WellFormed = false ∧
    (Instr.nop 0x1234).WellFormed = false ∧ (Instr.nop 0x5127).WellFormed = false ∧
    (Instr.nop 0x8127).WellFormed = false ∧ (Instr.nop 0x812E).WellFormed = false ∧
    (Instr.nop 0xD120).WellFormed = false ∧ (Instr.nop 0xE1F1).WellFormed = false ∧
    (Instr.nop 0xF165).WellFormed = false := by decide

theorem test_nop_of_an_unmapped_word_is_well_formed :
    (Instr.nop 0x00E1).WellFormed = true ∧ (Instr.nop 0x8128).WellFormed = true ∧
    (Instr.nop 0xE19F).WellFormed = true ∧ (Instr.nop 0xF166).WellFormed = true ∧
    (Instr.jp 0xFFF).WellFormed = true := by decide

/-! ## Decoding: words written out from 30_encoding.md R84 to R87, R90 and R93 -/

theorem test_decode_family_0 :
    decode 0x00E0 = .cls ∧ decode 0x0000 = .cls ∧ decode 0x0120 = .cls ∧ decode 0x00EE = .ret ∧
    decode 0x0FFE = .ret ∧ decode 0x00E1 = .nop 0x00E1 ∧ decode 0x000F = .nop 0x000F := by decide

theorem test_decode_families_1_to_7 :
    decode 0x1ABC = .jp 0xABC ∧ decode 0x2456 = .call 0x456 ∧ decode 0x3A42 = .seImm 0xA 0x42 ∧
    decode 0x4A42 = .sneImm 0xA 0x42 ∧ decode 0x5AB0 = .seReg 0xA 0xB ∧ decode 0x5127 = .seReg 1 2 ∧
    decode 0x6A5C = .ldImm 0xA 0x5C ∧ decode 0x71FE = .addImm 1 0xFE := by decide

theorem test_decode_family_8 :
    decode 0x8120 = .ldReg 1 2 ∧ decode 0x8121 = .or 1 2 ∧ decode 0x8122 = .and 1 2 ∧
    decode 0x8123 = .xor 1 2 ∧ decode 0x8124 = .addReg 1 2 ∧ decode 0x8125 = .sub 1 2 ∧
    decode 0x8126 = .shr 1 2 ∧ decode 0x8127 = .subn 1 2 ∧ decode 0x812E = .shl 1 2 ∧
    decode 0x8AB8 = .nop 0x8AB8 ∧ decode 0x8ABF = .nop 0x8ABF := by decide

theorem test_decode_families_9_to_E :
    decode 0x9AB7 = .sneReg 0xA 0xB ∧ decode 0xA23C = .ldI 0x23C ∧ decode 0xB300 = .jpV0 0x300 ∧
    decode 0xC10F = .rnd 1 0x0F ∧ decode 0xD125 = .drw 1 2 5 ∧ decode 0xE59E = .skp 5 ∧
    decode 0xE5A1 = .sknp 5 ∧ decode 0xE111 = .sknp 1 ∧ decode 0xE10E = .skp 1 ∧
    decode 0xE19F = .nop 0xE19F := by decide

theorem test_decode_family_F :
    decode 0xF307 = .ldVxDt 3 ∧ decode 0xF30A = .ldVxK 3 ∧ decode 0xF315 = .ldDtVx 3 ∧
    decode 0xF318 = .ldStVx 3 ∧ decode 0xF11E = .addI 1 ∧ decode 0xF129 = .ldF 1 ∧
    decode 0xF133 = .ldB 1 ∧ decode 0xF255 = .ldMemVx 2 ∧ decode 0xF265 = .ldVxMem 2 ∧
    decode 0xF1FF = .nop 0xF1FF ∧ decode 0xF100 = .nop 0xF100 := by decide

/-- The canonical words of 30_encoding.md R90. -/
theorem test_encode_canonical :
    encode .cls = 0x00E0 ∧ encode .ret = 0x00EE ∧ encode (.seReg 1 2) = 0x5120 ∧
    encode (.sneReg 1 2) = 0x9120 ∧ encode (.skp 5) = 0xE59E ∧ encode (.sknp 5) = 0xE5A1 ∧
    encode (.drw 1 2 5) = 0xD125 ∧ encodeBytes (.ldI 0x23C) = [0xA2, 0x3C] := by decide

theorem test_decode_bytes :
    decodeBytes [0xA2, 0x3C, 0x55] = .instr (.ldI 0x23C) [0x55] ∧
    decodeBytes [0xA2] = .rejected .truncated ∧ decodeBytes [] = .rejected .truncated ∧
    decodeTableWord 16 0xA23C = some (.ldI 0x23C) := by decide

/-! ## Control transfer -/

/-- V-C1, V-C18. -/
theorem test_jp :
    (after (before 0x1ABC)).map (·.pc) = some 0xABC ∧
    (after (before 0x1FFF)).map (·.pc) = some 0xFFF := by decide

/-- V-C4. -/
theorem test_call_sixteenth :
    (after (withStack (before 0x2456) 15 [])).map (fun t => (t.pc, t.sp, t.stack[15], t.fault)) =
      some (0x456, 16, 0x302, none) := by decide

/-- V-C5. -/
theorem test_call_seventeenth :
    (after (withStack (before 0x2456) 16 [])).map (fun t => (t.pc, t.sp, t.fault)) =
      some (0x300, 16, some ⟨.stackOverflow, 0x300, 16⟩) := by decide

/-- V-C6. -/
theorem test_ret :
    (after (withStack (before 0x00EE) 2 [0x202, 0x40A])).map (fun t => (t.pc, t.sp, t.stack[1])) =
      some (0x40A, 1, 0x40A) := by decide

/-- V-C7. -/
theorem test_ret_underflow :
    (after (before 0x00EE)).map (fun t => (t.pc, t.sp, t.fault)) =
      some (0x300, 0, some ⟨.stackUnderflow, 0x300, 0⟩) := by decide

/-- V-C8, V-C9. -/
theorem test_se_imm :
    (after ((before 0x3A42).setReg 0xA 0x42)).map (·.pc) = some 0x304 ∧
    (after ((before 0x3A42).setReg 0xA 0x43)).map (·.pc) = some 0x302 := by decide

/-- V-C10, V-C11. -/
theorem test_sne_imm :
    (after ((before 0x4A42).setReg 0xA 0x43)).map (·.pc) = some 0x304 ∧
    (after ((before 0x4A42).setReg 0xA 0x42)).map (·.pc) = some 0x302 := by decide

/-- V-D11, and unequal registers. -/
theorem test_se_reg :
    (after (((before 0x5121).setReg 1 6).setReg 2 6)).map (·.pc) = some 0x304 ∧
    (after (((before 0x5121).setReg 1 6).setReg 2 7)).map (·.pc) = some 0x302 := by decide

/-- V-D12, V-C14. -/
theorem test_sne_reg :
    (after (((before 0x9AB7).setReg 0xA 1).setReg 0xB 2)).map (·.pc) = some 0x304 ∧
    (after (((before 0x9AB0).setReg 0xA 9).setReg 0xB 9)).map (·.pc) = some 0x302 := by decide

/-- V-C16, V-C17: the offset is V0 whatever the field `x` is. -/
theorem test_jp_v0 :
    (after ((before 0xB300).setReg 0 0x10)).map (·.pc) = some 0x310 ∧
    (after ((before 0xBF80).setReg 0 0xFF)).map (·.pc) = some 0x107F := by decide

/-- V-D5, V-D9. -/
theorem test_nop :
    (after ((before 0x8AB8).setReg 0xA 3)).map (fun t => (t.pc, t.reg 0xA, t.reg 0xF)) =
      some (0x302, 3, 0) ∧
    (after ((before 0xF1FF).setReg 1 5)).map (fun t => (t.pc, t.reg 1)) = some (0x302, 5) := by decide

/-! ## ALU -/

/-- V-A1, V-A2. -/
theorem test_ld_imm :
    (after (before 0x6A5C)).map (·.reg 0xA) = some 0x5C ∧
    (after ((before 0x6F01).setReg 0xF 0x80)).map (·.reg 0xF) = some 0x01 := by decide

/-- V-A3, V-A4. -/
theorem test_add_imm :
    (after (((before 0x71FE).setReg 1 3).setReg 0xF 0x77)).map (fun t => (t.reg 1, t.reg 0xF)) =
      some (0x01, 0x77) ∧
    (after ((before 0x7F01).setReg 0xF 0xFF)).map (·.reg 0xF) = some 0x00 := by decide

/-- V-A5. -/
theorem test_ld_reg :
    (after ((((before 0x8120).setReg 1 1).setReg 2 0xAB).setReg 0xF 0x77)).map
      (fun t => (t.reg 1, t.reg 2, t.reg 0xF)) = some (0xAB, 0xAB, 0x77) := by decide

/-- V-A6. -/
theorem test_or :
    (after ((((before 0x8121).setReg 1 0xF0).setReg 2 0x0F).setReg 0xF 0x77)).map
      (fun t => (t.reg 1, t.reg 0xF)) = some (0xFF, 0x77) := by decide

/-- V-A7. -/
theorem test_and :
    (after ((((before 0x8122).setReg 1 0xF3).setReg 2 0x3F).setReg 0xF 0x77)).map
      (fun t => (t.reg 1, t.reg 0xF)) = some (0x33, 0x77) := by decide

/-- V-A8. -/
theorem test_xor :
    (after ((((before 0x8123).setReg 1 0xFF).setReg 2 0x0F).setReg 0xF 0x77)).map
      (fun t => (t.reg 1, t.reg 0xF)) = some (0xF0, 0x77) := by decide

/-- V-A10, V-A11. -/
theorem test_add_reg :
    (after (((before 0x8124).setReg 1 0xFF).setReg 2 1)).map (fun t => (t.reg 1, t.reg 0xF)) =
      some (0x00, 1) ∧
    (after (((before 0x8124).setReg 1 0x7F).setReg 2 0x80)).map (fun t => (t.reg 1, t.reg 0xF)) =
      some (0xFF, 0) := by decide

/-- V-A14, V-A16: the flag wins in VF, and the old VF is the operand. -/
theorem test_add_reg_flag_register :
    (after (((before 0x8F14).setReg 0xF 0x80).setReg 1 0x80)).map (·.reg 0xF) = some 1 ∧
    (after (((before 0x81F4).setReg 1 0x10).setReg 0xF 0xF0)).map (fun t => (t.reg 1, t.reg 0xF)) =
      some (0x00, 1) := by decide

/-- V-A18, V-A19. -/
theorem test_sub :
    (after (((before 0x8125).setReg 1 3).setReg 2 5)).map (fun t => (t.reg 1, t.reg 0xF)) =
      some (0xFE, 0) ∧
    (after (((before 0x8125).setReg 1 7).setReg 2 7)).map (fun t => (t.reg 1, t.reg 0xF)) =
      some (0x00, 1) := by decide

/-- V-A22, V-A23. -/
theorem test_sub_flag_register :
    (after (((before 0x8F15).setReg 0xF 0x10).setReg 1 5)).map (·.reg 0xF) = some 1 ∧
    (after (((before 0x81F5).setReg 1 5).setReg 0xF 1)).map (fun t => (t.reg 1, t.reg 0xF)) =
      some (4, 1) := by decide

/-- V-A24, V-A27. -/
theorem test_shr :
    (after (((before 0x8126).setReg 1 5).setReg 2 0xFF)).map
      (fun t => (t.reg 1, t.reg 2, t.reg 0xF)) = some (2, 0xFF, 1) ∧
    (after ((before 0x8F06).setReg 0xF 3)).map (·.reg 0xF) = some 1 := by decide

/-- V-A29, V-A31. -/
theorem test_subn :
    (after (((before 0x8127).setReg 1 5).setReg 2 3)).map (fun t => (t.reg 1, t.reg 0xF)) =
      some (0xFE, 0) ∧
    (after (((before 0x8F17).setReg 0xF 5).setReg 1 3)).map (·.reg 0xF) = some 0 := by decide

/-- V-A32, V-A33. -/
theorem test_shl :
    (after (((before 0x812E).setReg 1 0x81).setReg 2 0)).map (fun t => (t.reg 1, t.reg 0xF)) =
      some (2, 1) ∧
    (after ((before 0x812E).setReg 1 0x40)).map (fun t => (t.reg 1, t.reg 0xF)) = some (0x80, 0) := by
  decide

/-- V-A37: 0 for every draw. -/
theorem test_rnd_with_mask_0 : (after (before 0xC100)).map (·.reg 1) = some 0 := by
  show some (Config.freeDraw 0 &&& 0#8) = some 0
  rw [BitVec.and_zero]
  rfl

/-- V-A38: with mask FF the draw itself; each draw is counted. -/
theorem test_rnd_with_mask_FF :
    (after (before 0xC1FF)).map (fun t => (t.reg 1, t.draws)) = some (Config.freeDraw 0, 1) := by
  show some (Config.freeDraw 0 &&& 255#8, 1) = some (Config.freeDraw 0, 1)
  rw [show (255#8) = BitVec.allOnes 8 from rfl, BitVec.and_allOnes]

/-! ## Index register and memory -/

/-- V-M1, V-M2. -/
theorem test_ld_i :
    (after (before 0xA23C)).map (fun t => (t.I, t.pc)) = some (0x23C, 0x302) ∧
    (after (before 0xAFFF)).map (·.I) = some 0xFFF := by decide

/-- V-M3, V-M4. -/
theorem test_add_i :
    (after ((((before 0xF11E).setI 0xFFF).setReg 1 2).setReg 0xF 0x77)).map
      (fun t => (t.I, t.reg 0xF)) = some (0x1001, 0x77) ∧
    (after (((before 0xF11E).setI 0xFFFF).setReg 1 1)).map (·.I) = some 0 := by decide

/-- V-M6, V-M9. -/
theorem test_ld_f :
    (after ((before 0xF129).setReg 1 0x0A)).map (·.I) = some 0x082 ∧
    (after ((before 0xF129).setReg 1 0xFF)).map (·.I) = some 0x54B := by decide

/-- V-M10. -/
theorem test_ld_b :
    (after (((before 0xF133).setI 0x400).setReg 1 0x9C)).map
      (fun t => (Memory.read t.mem 0x400, Memory.read t.mem 0x401, Memory.read t.mem 0x402, t.I)) =
      some (1, 5, 6, 0x400) := by decide

/-- V-M14. -/
theorem test_ld_b_past_memory :
    (after (((before 0xF133).setI 0xFFE).setReg 1 9)).map
      (fun t => (t.pc, t.fault, Memory.read t.mem 0xFFE)) =
      some (0x300, some ⟨.memRange, 0x300, 0x1000⟩, 0) := by decide

/-- V-M17. -/
theorem test_store_regs :
    (after (((((before 0xF255).setI 0x400).setReg 0 1).setReg 2 3).setReg 3 4)).map
      (fun t => (Memory.read t.mem 0x400, Memory.read t.mem 0x402, Memory.read t.mem 0x403, t.I)) =
      some (1, 3, 0, 0x400) := by decide

/-- V-M18, V-M19. -/
theorem test_store_regs_end_of_memory :
    (after ((((before 0xFF55).setI 0xFF0).setReg 0xF 0xEE).setReg 0 0x11)).map
      (fun t => (Memory.read t.mem 0xFF0, Memory.read t.mem 0xFFF)) = some (0x11, 0xEE) ∧
    (after (((before 0xFF55).setI 0xFF1).setReg 0 0x11)).map
      (fun t => (t.fault, Memory.read t.mem 0xFF1)) =
      some (some ⟨.memRange, 0x300, 0x1000⟩, 0) := by decide

/-- V-M20. -/
theorem test_load_regs :
    (after ((withBytes (before 0xF265) 0x400 [7, 8, 9, 0xA]).setReg 3 0x33)).map
      (fun t => (t.reg 0, t.reg 1, t.reg 2, t.reg 3, t.I)) = some (7, 8, 9, 0x33, 0x400) := by decide

/-- V-M23, V-M24. -/
theorem test_load_regs_edges :
    (after (((before 0xF165).setI 0xFFF).setReg 0 3)).map (fun t => (t.reg 0, t.pc, t.fault)) =
      some (3, 0x300, some ⟨.memRange, 0x300, 0x1000⟩) ∧
    (after ((before 0xF065).setI 0x050)).map (·.reg 0) = some 0xF0 := by decide

/-! ## Display -/

/-- V-G1. -/
theorem test_cls :
    (after ((withLit (before 0x00E0) [(0, 0), (63, 31)]).setReg 0xF 0x55)).map
      (fun t => (pixelsFrom t 0 0 1, pixelsFrom t 31 63 1, t.redraw, t.reg 0xF)) =
      some ([false], [false], true, 0x55) := by decide

/-- V-G4. -/
theorem test_drw_partial_collision :
    (after (withLit (withBytes (before 0xD011) 0x400 [0xC0]) [(0, 0)])).map
      (fun t => (pixelsFrom t 0 0 3, t.redraw, t.reg 0xF)) = some ([false, true, false], true, 1) := by decide

/-- V-G6: the right half is clipped, and does not come back at the left edge. -/
theorem test_drw_clips :
    (after ((withBytes (before 0xD121) 0x400 [0xFF]).setReg 1 0x3C)).map
      (fun t => (pixelsFrom t 0 59 5, pixelsFrom t 0 0 4, t.reg 0xF)) =
      some ([false, true, true, true, true], [false, false, false, false], 0) := by decide

/-! ## Timers and input -/

/-- V-T1, V-T2. -/
theorem test_skp :
    (after (writeKey 3 true ((before 0xE59E).setReg 5 3))).map (·.pc) = some 0x304 ∧
    (after ((before 0xE59E).setReg 5 3)).map (·.pc) = some 0x302 := by decide

/-- V-T3, V-T6. -/
theorem test_sknp :
    (after ((before 0xE5A1).setReg 5 3)).map (·.pc) = some 0x304 ∧
    (after ((before 0xE5A1).setReg 5 0xFF)).map (fun t => (t.pc, t.fault)) =
      some (0x300, some ⟨.keyRange, 0x300, 0xFF⟩) := by decide

/-- V-T7. -/
theorem test_ld_vx_dt :
    (after ((before 0xF307).setDT 60)).map (fun t => (t.reg 3, t.DT)) = some (0x3C, 60) := by decide

/-- V-T10, V-T11. -/
theorem test_wait_key :
    (after ((before 0xF30A).setReg 3 0x77)).map (fun t => (t.reg 3, t.pc)) = some (0x77, 0x300) ∧
    (after (writeKey 4 true (writeKey 9 true (before 0xF30A)))).map (fun t => (t.reg 3, t.pc)) =
      some (4, 0x302) := by decide

/-- V-T8. -/
theorem test_ld_dt :
    (after ((before 0xF315).setReg 3 0x20)).map (fun t => (t.DT, t.ST)) = some (32, 0) := by decide

/-- V-T9. -/
theorem test_ld_st :
    (after ((before 0xF318).setReg 3 2)).map (fun t => (t.DT, t.ST)) = some (0, 2) := by decide

/-! ## Fetch, latch, and operations outside the step -/

/-- V-F1, V-F2. -/
theorem test_fetch_edges :
    (after (beforeAt 0xFFE 0x6007)).map (fun t => (t.reg 0, t.pc)) = some (7, 0x1000) ∧
    (after (beforeAt 0x201 0x6007)).map (fun t => (t.reg 0, t.pc)) = some (7, 0x203) := by decide

/-- V-O14, V-O15. -/
theorem test_fetch_outside :
    (after (State.reset.jump 0xFFF)).map (fun t => (t.pc, t.fault)) =
      some (0xFFF, some ⟨.fetchRange, 0xFFF, 0x1000⟩) ∧
    (after (State.reset.jump 0x107F)).map (fun t => (t.pc, t.fault)) =
      some (0x107F, some ⟨.fetchRange, 0x107F, 0x107F⟩) := by decide

/-- V-O6. -/
theorem test_halted :
    (after ((before 0x6007).takeFault .memRange 0x1000)).map (fun t => (t.reg 0, t.pc)) =
      some (0, 0x300) := by decide

/-- V-O2, V-O3. -/
theorem test_tick :
    (tick State.reset).DT = 0 ∧ (tick State.reset).ST = 0 ∧
    (tick ((State.reset.setDT 0x3C).setST 2)).DT = 0x3B ∧
    (tick ((State.reset.setDT 0x3C).setST 2)).ST = 1 ∧
    (tick ((State.reset.setDT 0x3C).setST 2)).tone = true := by decide

/-- The codes of 60_exceptions.md R242. -/
theorem test_fault_codes :
    [FaultCause.fetchRange, .memRange, .stackOverflow, .stackUnderflow, .keyRange].map
      FaultCause.code = [1, 2, 3, 4, 5] := by decide

/-- L1-6: a load resets, then copies. -/
theorem test_load_program :
    (match loadProgram [0x12, 0x00] (((before 0x6007).setReg 3 0x42).takeFault .memRange 0x1000) with
     | .ok t => some (t.reg 3, t.pc, t.fault, Memory.read t.mem 0x200, Memory.read t.mem 0x301)
     | .imageTooLarge => none) = some (0, 0x200, none, 0x12, 0) := by decide

/-- The host's placing of an instruction after reset. -/
theorem test_with_fetch_word :
    (after (State.reset.withFetchWord 16 0xA23C)).map (fun t => (t.I, t.pc)) = some (0x23C, 0x202) := by
  decide

/-! ## Witnesses: states and operands that meet the hypotheses of each obligation -/

/-- A part is the same in a state and itself. -/
theorem frame_refl (parts : List StatePart) (s : State) : FrameExcept parts s s := by
  intro p _
  cases p <;> simp [SamePart]

theorem witness_DecodeOfEncodeIsTheInstruction :
    (Instr.nop 0x8AB8).WellFormed = true ∧ (Instr.drw 0xF 0xF 0xF).WellFormed = true := by decide

theorem witness_IgnoredBitsDoNotMatter :
    (0x0FF0 : Word) &&& 0xF00F = 0x0000 ∧ (0x0FFE : Word) &&& 0xF00F = 0x000E := by decide

theorem witness_StepRunsTheDecodedInstruction :
    (beforeAt 0xFFE 0x6007).fault = none ∧ (beforeAt 0xFFE 0x6007).pc.toNat ≤ 0xFFE := by decide

theorem witness_FetchOutsideMemoryIsLatched :
    (State.reset.jump 0xFFF).fault = none ∧ 0xFFE < (State.reset.jump 0xFFF).pc.toNat := by decide

theorem witness_HaltedCoreDoesNotMove :
    (State.reset.takeFault .memRange 0x1000).fault = some ⟨.memRange, 0x200, 0x1000⟩ := by decide

theorem witness_FaultingStepChangesTheLatchAlone :
    ∃ (s t : State) (f : FaultRecord), s.fault = none ∧ step s = .next t ∧ t.fault = some f :=
  ⟨before 0x00EE, _, _, rfl, rfl, rfl⟩

/-- No fault due, and each of the five causes due. -/
theorem witness_StepFaultsExactlyWhenDue :
    (before 0x6007).fault = none ∧ faultDue (before 0x6007) = none ∧
    faultDue (State.reset.jump 0xFFF) = some (.fetchRange, 0x1000) ∧
    (withStack (before 0x2456) 16 []).sp.toNat ≤ 16 ∧
    faultDue (withStack (before 0x2456) 16 []) = some (.stackOverflow, 16) ∧
    faultDue (withStack (before 0x2456) 15 []) = none ∧
    faultDue (before 0x00EE) = some (.stackUnderflow, 0) ∧
    faultDue ((before 0xE59E).setReg 5 16) = some (.keyRange, 16) ∧
    faultDue ((before 0xE59E).setReg 5 15) = none ∧
    faultDue ((before 0xD001).setI 0x1000) = some (.memRange, 0x1000) ∧
    faultDue ((before 0xD001).setI 0xFFF) = none ∧
    faultDue ((before 0xF133).setI 0xFFE) = some (.memRange, 0x1000) ∧
    faultDue ((before 0xF155).setI 0x1001) = some (.memRange, 0x1001) := by decide

/-- A running state at its bounds: sixteen return addresses, the greatest of them the end of memory. -/
def fullStack : State :=
  withStack ((before 0x6007).setReg 3 0xFF) 16 (List.replicate 16 0x1000)

theorem fullStack_inv : fullStack.Inv :=
  ⟨by decide, by decide, by decide, by decide, fun _ h => nomatch (show none = some _ from h)⟩

theorem witness_StepKeepsTheInvariant : ∃ s t : State, s.Inv ∧ step s = .next t :=
  ⟨fullStack, _, fullStack_inv, rfl⟩

/-- A halted state too meets the invariant. -/
theorem witness_EveryInterleavingKeepsTheInvariant :
    ∃ s : State, s.Inv ∧ s.fault = some ⟨.memRange, 0x200, 0x1000⟩ :=
  ⟨State.reset.takeFault .memRange 0x1000,
    ⟨by decide, by decide, by decide, by decide, by intro f h; cases h; exact ⟨rfl, rfl⟩⟩, rfl⟩

theorem witness_InstructionsWriteOnlyTheirParts :
    (∃ t : State, exec (.ldI 0x23C) State.reset = .next t) ∧
    (∃ t : State, exec .ret State.reset = .next t) := ⟨⟨_, rfl⟩, ⟨_, rfl⟩⟩

theorem witness_InstructionsWriteOnlyTheirRegisters :
    ∃ t : State, exec (.addReg 0xF 0xF) State.reset = .next t := ⟨_, rfl⟩

theorem witness_SoundTimerAndRedrawAreNotRead : ∃ t : State, step (before 0xD011) = .next t := ⟨_, rfl⟩

theorem witness_OtherInstructionsDoNotReadTheLatches :
    (decode (before 0x6007).fetchWord).mnemonic ∉ [Mnemonic.SKP, .SKNP, .LD_VX_K] ∧
    ∃ t : State, step (before 0x6007) = .next t := ⟨by decide, _, rfl⟩

/-- A jump to 0xABC; a call to 0x456; an offset jump to 0xF80 + 0xFE. -/
theorem witness_EvenTargetsKeepPcEven :
    (before 0x1ABC).pc.toNat % 2 = 0 ∧ (∀ k : Fin 16, ((before 0x1ABC).stack[k]).toNat % 2 = 0) ∧
    decode (before 0x1ABC).fetchWord = .jp 0xABC ∧ (0xABC : Addr12).toNat % 2 = 0 ∧
    decode (before 0x2456).fetchWord = .call 0x456 ∧ (0x456 : Addr12).toNat % 2 = 0 ∧
    decode (before 0xBF80).fetchWord = .jpV0 0xF80 ∧
    ((0xF80 : Addr12).toNat + (((before 0xBF80).setReg 0 0xFE).reg 0).toNat) % 2 = 0 := by decide

theorem witness_EvenTargetsKeepPcEven_steps : ∃ t : State, step (before 0x1ABC) = .next t := ⟨_, rfl⟩

theorem witness_WaitKeySpinLeavesTheState :
    (before 0xF30A).fault = none ∧ (before 0xF30A).pc.toNat ≤ 0xFFE ∧
    decode (before 0xF30A).fetchWord = .ldVxK 3 ∧ ∀ k : Fin 16, (before 0xF30A).key[k] = false := by decide

/-- Fx55 with `x = 0xF` over the end of memory, and `pc` at its last two bytes. -/
theorem witness_StoredCodeIsFetchedNext :
    Memory.wf ((State.reset.jump 0xFFE).setI 0xFF0).mem = true ∧
    ((State.reset.jump 0xFFE).setI 0xFF0).fault = none ∧ (0xFF0 : Nat) + (0xF : RegIdx).val < 0x1000 ∧
    (0xE : RegIdx).val + 1 ≤ (0xF : RegIdx).val ∧
    ((State.reset.jump 0xFFE).setI 0xFF0).pc.toNat =
      ((State.reset.jump 0xFFE).setI 0xFF0).I.toNat + (0xE : RegIdx).val := by decide

theorem witness_JumpSetsPc : (0xFFF : Addr12) = 0xFFF ∧ State.reset.fault = none := by decide

theorem witness_CallPushesTheReturnAddress :
    (withStack State.reset 15 []).sp.toNat < 16 ∧ 16 ≤ (withStack State.reset 16 []).sp.toNat := by decide

theorem witness_ReturnPopsTheReturnAddress :
    0 < (withStack State.reset 1 []).sp.toNat ∧ (withStack State.reset 16 []).sp.toNat ≤ 16 ∧
    State.reset.sp = 0 ∧ 16 < (withStack State.reset 17 []).sp.toNat := by decide

/-- After a call, the state it leaves is itself one in which the return comes back. -/
theorem witness_ReturnComesBackAfterTheCall :
    (withStack State.reset 15 []).sp.toNat < 16 ∧
    ∃ t u : State, exec (.call 0x456) (withStack State.reset 15 []) = .next t ∧
      u.sp = t.sp ∧ u.stackAt 15 = t.stackAt 15 := ⟨by decide, _, _, rfl, rfl, rfl⟩

/-- The skip from 0xFFC that makes `pc` 0x1000. -/
theorem witness_ComparesSkipOneWord :
    ∃ t : State, exec (.seImm 0 0) (State.reset.jump 0xFFE) = .next t ∧ t.pc = 0x1000 ∧
      (State.reset.jump 0xFFE).fault = none := ⟨_, rfl, by decide, by decide⟩

theorem witness_UnmappedWordDoesNothing : unmapped 0x00E1 = true ∧ unmapped 0xF100 = true := by decide

/-- For the clauses of the five flag-writing instructions that ask for `x ≠ 0xF`. -/
theorem witness_flag_writing_instructions : (0xE : RegIdx) ≠ 0xF ∧ (0x0 : RegIdx) ≠ 0xF := by decide

/-- Digit F, the last glyph, with the font of reset. -/
theorem witness_FontAddressPointsAtTheGlyph :
    ((State.reset.setReg 1 0xF).reg 1).toNat < 16 ∧
    ∀ a : Nat, Memory.read (State.reset.setReg 1 0xF).mem a = Memory.read State.reset.mem a :=
  ⟨by decide, fun _ => rfl⟩

/-- The last `I` from which each transfer stays in memory. -/
theorem witness_transfers_in_memory :
    Memory.wf State.reset.mem = true ∧ (State.reset.setI 0xFFD).I.toNat + 3 ≤ 0x1000 ∧
    (State.reset.setI 0xFF0).I.toNat + ((0xF : RegIdx).val + 1) ≤ 0x1000 ∧
    (State.reset.setI 0xFFF).I.toNat + ((0x0 : RegIdx).val + 1) ≤ 0x1000 ∧
    (State.reset.setI 0xFF1).I.toNat + (0xF : Fin 16).val ≤ 0x1000 := by decide

/-- The first `I` from which each transfer passes the end. -/
theorem witness_TransferPastMemoryFaults :
    0x1000 < (State.reset.setI 0xFFE).I.toNat + 3 ∧
    0x1000 < (State.reset.setI 0xFF1).I.toNat + ((0xF : RegIdx).val + 1) ∧
    0x1000 < (State.reset.setI 0x1000).I.toNat + ((0x0 : RegIdx).val + 1) ∧
    0 < (0x1 : Fin 16).val ∧ 0x1000 < (State.reset.setI 0x1000).I.toNat + (0x1 : Fin 16).val := by decide

/-- The state the store leaves is itself one from which the load gives the registers back. -/
theorem witness_LoadRegsRestoresStoredRegs :
    ∃ t u : State, exec (.ldMemVx 0xF) (State.reset.setI 0xFF0) = .next t ∧
      u.I = (State.reset.setI 0xFF0).I ∧
      ∀ a : Nat, 0xFF0 ≤ a → a ≤ 0xFFF → Memory.read u.mem a = Memory.read t.mem a :=
  ⟨_, _, rfl, rfl, fun _ _ _ => rfl⟩

/-- A covered lit pixel, and a draw that covers none. -/
theorem witness_DrawXorsTheClippedSprite :
    (0x0 : Fin 16).val = 0 ∧ (State.reset.setI 0xFFF).I.toNat + (0x1 : Fin 16).val ≤ 0x1000 ∧
    spriteCovers State.reset.mem 0x050 63 31 1 31 63 = true ∧
    Framebuffer.pixel (withLit State.reset [(63, 31)]).fb 31 63 = true ∧
    (∀ row col : Nat, spriteCovers State.reset.mem 0x050 0 0 0 row col = true →
      Framebuffer.pixel State.reset.fb row col = false) := by
  refine ⟨by decide, by decide, by decide, by decide, fun row col h => ?_⟩
  simp [spriteCovers] at h

theorem witness_SecondDrawRestoresEveryPixel :
    (0x0 : RegIdx) ≠ 0xF ∧ (0x1 : RegIdx) ≠ 0xF ∧
    (State.reset.setI 0x050).I.toNat + (0x5 : Fin 16).val ≤ 0x1000 ∧
    ∃ t t' : State, exec (.drw 0 1 5) (State.reset.setI 0x050) = .next t ∧
      FrameExcept [.pc, .DT, .ST, .key, .redraw] t t' :=
  ⟨by decide, by decide, by decide, _, _, rfl, frame_refl _ _⟩

/-- V-G8: columns 0x44 and 4, rows 0x21 and 1. -/
theorem witness_OriginWrapsModuloTheGrid :
    FrameExcept [.V] ((State.reset.setReg 1 4).setReg 2 1) ((State.reset.setReg 1 0x44).setReg 2 0x21) ∧
    (((State.reset.setReg 1 0x44).setReg 2 0x21).reg 1).toNat % 64 =
      (((State.reset.setReg 1 4).setReg 2 1).reg 1).toNat % 64 ∧
    (((State.reset.setReg 1 0x44).setReg 2 0x21).reg 2).toNat % 32 =
      (((State.reset.setReg 1 4).setReg 2 1).reg 2).toNat % 32 ∧
    ((State.reset.setReg 1 4).setReg 2 1).I.toNat + (0xF : Fin 16).val ≤ 0x1000 := by
  refine ⟨fun p hp => ?_, by decide, by decide, by decide⟩
  cases p <;> first | rfl | exact fun _ => rfl | exact absurd (List.mem_singleton.mpr rfl) hp

theorem witness_KeySkipsFollowTheLatch :
    (State.reset.setReg 5 15).key[((State.reset.setReg 5 15).reg 5).toNat]? = some false ∧
    (writeKey 15 true (State.reset.setReg 5 15)).key[((State.reset.setReg 5 15).reg 5).toNat]? =
      some true ∧
    16 ≤ ((State.reset.setReg 5 16).reg 5).toNat := by decide

/-- Key F alone, key 0 with others, and no key. -/
theorem witness_WaitKeyTakesTheLeastKey :
    ((writeKey 15 true State.reset).key[(15 : Fin 16)] = true ∧
      ∀ j : Fin 16, j < 15 → (writeKey 15 true State.reset).key[j] = false) ∧
    ((writeKey 0 true (writeKey 9 true State.reset)).key[(0 : Fin 16)] = true ∧
      ∀ j : Fin 16, j < 0 → (writeKey 0 true (writeKey 9 true State.reset)).key[j] = false) ∧
    (∀ k : Fin 16, State.reset.key[k] = false) := by decide

theorem witness_HostWritesLatchesAndClearsRedraw :
    (0xE : Fin 16) ≠ 0xF ∧ ∃ t : State, step State.reset = .next t := ⟨by decide, _, rfl⟩

theorem witness_ResetGivesEveryPartItsValue :
    ∃ s t : State, t = reset s ∧ s.DT = 9 := ⟨State.reset.setDT 9, _, rfl, rfl⟩

theorem witness_LoadProgramResetsAndCopies :
    3584 < (List.replicate 3585 (0x12 : Byte)).length ∧
    (List.replicate 3584 (0x12 : Byte)).length ≤ 3584 ∧ ([] : List Byte).length ≤ 3584 := by
  refine ⟨?_, ?_, Nat.zero_le _⟩ <;> rw [List.length_replicate]
  exact Nat.lt_succ_self _

/-- A tick, an image that fits and one that does not, on a halted core. -/
theorem witness_OnlyALoadLeavesTheHalt :
    (State.reset.takeFault .memRange 0x1000).fault = some ⟨.memRange, 0x200, 0x1000⟩ ∧
    (∃ t : State, hostEvent .tick (State.reset.takeFault .memRange 0x1000) = .next t) ∧
    (∃ t : State, hostEvent (.load [0x12, 0x00]) (State.reset.takeFault .memRange 0x1000) = .next t) ∧
    3584 < (List.replicate 3585 (0x12 : Byte)).length := by
  refine ⟨by decide, ⟨_, rfl⟩, ⟨_, rfl⟩, ?_⟩
  rw [List.length_replicate]
  exact Nat.lt_succ_self _

end Sys2Proof.Tests
end

section
/-! PROOF. The statements of 30_encoding.md: the unmapped word, and the fetch of one step. -/

namespace Sys2Proof

/-! ## Unmapped words, R84 to R88 -/

/-- `unmapped` read through the fields of R71: a sub-key that the sub-table of its family leaves out. -/
theorem unmapped_iff (w : Word) :
    unmapped w = true ↔
      ((opField w).toNat = 0x0 ∧ (nField w).val ∉ [0x0, 0xE]) ∨
      ((opField w).toNat = 0x8 ∧ (nField w).val ∉ [0x0, 0x1, 0x2, 0x3, 0x4, 0x5, 0x6, 0x7, 0xE]) ∨
      ((opField w).toNat = 0xE ∧ (nField w).val ∉ [0x1, 0xE]) ∨
      ((opField w).toNat = 0xF ∧ (kkField w).toNat ∉ mappedLastBytes) := by
  simp only [unmapped, opField_toNat, nField_val, kkField_toNat, Bool.or_eq_true, Bool.and_eq_true,
    beq_iff_eq, Bool.not_eq_true', List.contains_eq_mem, decide_eq_false_iff_not, or_assoc]

theorem decode_eq_decodeFamily0 (w : Word) (h : (opField w).toNat = 0x0) :
    decode w = decodeFamily0 w := by simp only [decode, h]

theorem decode_eq_decodeFamily8 (w : Word) (h : (opField w).toNat = 0x8) :
    decode w = decodeFamily8 w := by simp only [decode, h]

theorem decode_eq_decodeFamilyE (w : Word) (h : (opField w).toNat = 0xE) :
    decode w = decodeFamilyE w := by simp only [decode, h]

theorem decode_eq_decodeFamilyF (w : Word) (h : (opField w).toNat = 0xF) :
    decode w = decodeFamilyF w := by simp only [decode, h]

/-! In each sub-table every mapped row contradicts the hypothesis; the last row is `nop`. -/

theorem decodeFamily0_eq_nop (w : Word) (h : (nField w).val ∉ [0x0, 0xE]) :
    decodeFamily0 w = .nop w := by
  unfold decodeFamily0
  split <;> simp_all

theorem decodeFamily8_eq_nop (w : Word)
    (h : (nField w).val ∉ [0x0, 0x1, 0x2, 0x3, 0x4, 0x5, 0x6, 0x7, 0xE]) :
    decodeFamily8 w = .nop w := by
  unfold decodeFamily8
  split <;> simp_all

theorem decodeFamilyE_eq_nop (w : Word) (h : (nField w).val ∉ [0x1, 0xE]) :
    decodeFamilyE w = .nop w := by
  unfold decodeFamilyE
  split <;> simp_all

theorem decodeFamilyF_eq_nop (w : Word) (h : (kkField w).toNat ∉ mappedLastBytes) :
    decodeFamilyF w = .nop w := by
  unfold decodeFamilyF
  split <;> simp_all [mappedLastBytes]

/-- Each of the four families with a sub-table sends its unmapped sub-keys to `nop` (R88). -/
theorem decode_of_unmapped (w : Word) (h : unmapped w = true) : decode w = .nop w := by
  obtain ⟨hop, hn⟩ | ⟨hop, hn⟩ | ⟨hop, hn⟩ | ⟨hop, hkk⟩ := (unmapped_iff w).mp h
  · exact (decode_eq_decodeFamily0 w hop).trans (decodeFamily0_eq_nop w hn)
  · exact (decode_eq_decodeFamily8 w hop).trans (decodeFamily8_eq_nop w hn)
  · exact (decode_eq_decodeFamilyE w hop).trans (decodeFamilyE_eq_nop w hn)
  · exact (decode_eq_decodeFamilyF w hop).trans (decodeFamilyF_eq_nop w hkk)

/-! ## The fetched word, R80 -/

theorem wordOfBytes_eq_ofNat (a b : Byte) :
    wordOfBytes a b = BitVec.ofNat 16 (a.toNat * 256 + b.toNat) := by
  rw [← wordOfBytes_toNat, BitVec.ofNat_toNat, BitVec.setWidth_eq]

namespace Machine

/-- The meaning of the NOP, which is all of R88 but the advance. -/
theorem exec_nop (w : Word) (s : State) : exec (.nop w) s = .next s := rfl

/-- The fetch is big-endian (R80). -/
theorem State.fetchWord_eq (s : State) :
    s.fetchWord = BitVec.ofNat 16
      ((Memory.read s.mem s.pc.toNat).toNat * 256 + (Memory.read s.mem (s.pc.toNat + 1)).toNat) :=
  wordOfBytes_eq_ofNat _ _

/-- Settles O27: each sub-table sends the sub-keys it leaves out to `nop`, whose meaning is the identity. -/
theorem unmappedWordDoesNothing : Obligations.UnmappedWordDoesNothing :=
  ⟨decode_of_unmapped, exec_nop⟩

/-- Settles O6: a fetch inside memory, with the fetched word written as the sum of its bytes. -/
theorem stepRunsTheDecodedInstruction : Obligations.StepRunsTheDecodedInstruction := by
  intro s hrunning hpc
  rw [step_inside s hrunning (Nat.not_lt.mpr hpc), s.fetchWord_eq]
  rfl

end Machine

end Sys2Proof
end

section
/-! PROOF. The statements of 41_control_flow.md: the jump and the four compares. -/

namespace Sys2Proof

/-! ## Decoding families 1, 3, 4, 5 and 9, R83 and R92 -/

@[simp] theorem decode_wordNNN_1 (nnn : Addr12) : decode (wordNNN 0x1 nnn) = .jp nnn := by
  simp [decode]

@[simp] theorem decode_wordXKK_3 (x : RegIdx) (kk : Byte) : decode (wordXKK 0x3 x kk) = .seImm x kk := by
  simp [decode]

@[simp] theorem decode_wordXKK_4 (x : RegIdx) (kk : Byte) : decode (wordXKK 0x4 x kk) = .sneImm x kk := by
  simp [decode]

@[simp] theorem decode_wordXYN_5 (x y : RegIdx) (n : Fin 16) :
    decode (wordXYN 0x5 x y n) = .seReg x y := by
  simp [decode]

@[simp] theorem decode_wordXYN_9 (x y : RegIdx) (n : Fin 16) :
    decode (wordXYN 0x9 x y n) = .sneReg x y := by
  simp [decode]

namespace Machine

/-! ## The frame of a write to `pc` -/

/-- A jump writes `pc` alone. -/
theorem frameExcept_jump (s : State) (target : Word) : FrameExcept [.pc] s (s.jump target) := by
  intro p hp
  cases p
  case pc => exact absurd (List.mem_singleton.mpr rfl) hp
  all_goals simp [SamePart]

/-- A skip is a jump, to the next word but one or to where `pc` already is. -/
theorem State.skipIf_eq_jump (s : State) (c : Bool) :
    s.skipIf c = s.jump (if c then s.pc + 2 else s.pc) := by
  cases c <;> rfl

/-- A skip writes `pc` alone. -/
theorem frameExcept_skipIf (s : State) (c : Bool) : FrameExcept [.pc] s (s.skipIf c) :=
  s.skipIf_eq_jump c ▸ frameExcept_jump s _

@[simp] theorem addrOf_toNat (nnn : Addr12) : (addrOf nnn).toNat = nnn.toNat :=
  BitVec.toNat_setWidth_of_le (by decide)

/-! ## What the jump and the compares answer -/

theorem exec_jp (nnn : Addr12) (s : State) : exec (.jp nnn) s = .next (s.jump (addrOf nnn)) := rfl

theorem exec_seImm (x : RegIdx) (kk : Byte) (s : State) :
    exec (.seImm x kk) s = .next (s.skipIf (s.reg x == kk)) := rfl

theorem exec_sneImm (x : RegIdx) (kk : Byte) (s : State) :
    exec (.sneImm x kk) s = .next (s.skipIf (s.reg x != kk)) := rfl

theorem exec_seReg (x y : RegIdx) (s : State) :
    exec (.seReg x y) s = .next (s.skipIf (s.reg x == s.reg y)) := rfl

theorem exec_sneReg (x y : RegIdx) (s : State) :
    exec (.sneReg x y) s = .next (s.skipIf (s.reg x != s.reg y)) := rfl

/-- A compare with an immediate leaves the latch as it was. -/
theorem fault_of_exec_compareImm {x : RegIdx} {kk : Byte} {s t : State}
    (h : exec (.seImm x kk) s = .next t ∨ exec (.sneImm x kk) s = .next t) : t.fault = s.fault := by
  obtain h | h := h
  · cases (exec_seImm x kk s).symm.trans h
    exact s.skipIf_fault _
  · cases (exec_sneImm x kk s).symm.trans h
    exact s.skipIf_fault _

/-- A running core whose `pc` is past 0xFFE latches the fetch fault at its next step (R81). -/
theorem step_latches_fetchRange {s : State} {a : Word} (hrunning : s.fault = none) (hpc : s.pc = a)
    (ha : 0xFFE < a.toNat) :
    ∃ u : State, step s = .next u ∧ u.fault = some ⟨.fetchRange, a, max a.toNat 0x1000⟩ := by
  subst hpc
  exact ⟨_, step_outside s hrunning ha, rfl⟩

/-! ## The obligations -/

/-- Settles O21: the jump answers `jump`, and 0xFFF is past the last fetch address. -/
theorem jumpSetsPc : Obligations.JumpSetsPc := by
  refine fun nnn s => ⟨decode_wordNNN_1 nnn, _, exec_jp nnn s, addrOf_toNat nnn, frameExcept_jump s _, ?_⟩
  rintro rfl hrunning
  exact step_latches_fetchRange (a := 0xFFF) hrunning rfl (by decide)

/-- Settles O26: each compare answers `skipIf` of its condition, and 0x1000 is past the last fetch
address. -/
theorem comparesSkipOneWord : Obligations.ComparesSkipOneWord := by
  intro x y kk s
  refine ⟨⟨_, exec_seImm x kk s, ?seImm, frameExcept_skipIf s _⟩,
    ⟨_, exec_sneImm x kk s, ?sneImm, frameExcept_skipIf s _⟩,
    ⟨_, exec_seReg x y s, ?seReg, frameExcept_skipIf s _⟩,
    ⟨_, exec_sneReg x y s, ?sneReg, frameExcept_skipIf s _⟩,
    decode_wordXKK_3 x kk, decode_wordXKK_4 x kk,
    fun n => ⟨decode_wordXYN_5 x y n, decode_wordXYN_9 x y n⟩, ?nextFetch⟩
  case nextFetch =>
    intro t ht hpc hrunning
    have ht_running : t.fault = none := (fault_of_exec_compareImm ht).trans hrunning
    exact step_latches_fetchRange ht_running hpc (by decide)
  all_goals simp

end Machine

end Sys2Proof
end

section
/-! PROOF. The statements of 42_alu.md: the immediates, and the five instructions that write VF. -/

namespace Sys2Proof

/-! ## Decoding families 6, 7 and 8, R83 and R85 -/

theorem decode_wordXKK_6 (x : RegIdx) (kk : Byte) : decode (wordXKK 0x6 x kk) = .ldImm x kk := by
  simp [decode]

theorem decode_wordXKK_7 (x : RegIdx) (kk : Byte) : decode (wordXKK 0x7 x kk) = .addImm x kk := by
  simp [decode]

/-- Family 8 reads the fields of its format, so a row is found by the last nibble alone (R85). -/
theorem decode_wordXYN_8 (x y : RegIdx) (n : Fin 16) :
    decode (wordXYN 0x8 x y n) = decodeFamily8 (wordXYN 0x8 x y n) :=
  decode_eq_decodeFamily8 _ (by simp)

theorem decode_wordXYN_8_4 (x y : RegIdx) : decode (wordXYN 0x8 x y 0x4) = .addReg x y :=
  (decode_wordXYN_8 x y 0x4).trans (by simp [decodeFamily8])

theorem decode_wordXYN_8_5 (x y : RegIdx) : decode (wordXYN 0x8 x y 0x5) = .sub x y :=
  (decode_wordXYN_8 x y 0x5).trans (by simp [decodeFamily8])

theorem decode_wordXYN_8_6 (x y : RegIdx) : decode (wordXYN 0x8 x y 0x6) = .shr x y :=
  (decode_wordXYN_8 x y 0x6).trans (by simp [decodeFamily8])

theorem decode_wordXYN_8_7 (x y : RegIdx) : decode (wordXYN 0x8 x y 0x7) = .subn x y :=
  (decode_wordXYN_8 x y 0x7).trans (by simp [decodeFamily8])

theorem decode_wordXYN_8_E (x y : RegIdx) : decode (wordXYN 0x8 x y 0xE) = .shl x y :=
  (decode_wordXYN_8 x y 0xE).trans (by simp [decodeFamily8])

namespace Machine

/-! ## Register writes: what is read back, and the frame -/

theorem State.setReg_reg_same (s : State) (x : RegIdx) (v : Byte) : (s.setReg x v).reg x = v := by
  simp

theorem State.setRegAndFlag_reg_dest (s : State) {x : RegIdx} (hx : x ≠ 0xF) (v c : Byte) :
    (s.setRegAndFlag x v c).reg x = v := by
  simp [hx]

theorem State.setRegAndFlag_reg_flag (s : State) (x : RegIdx) (v c : Byte) :
    (s.setRegAndFlag x v c).reg 0xF = c := by
  simp

theorem regsExcept_setReg (s : State) (x : RegIdx) (v : Byte) : RegsExcept [x] s (s.setReg x v) := by
  intro r hr
  have hx : r ≠ x := by simpa using hr
  simp [hx]

theorem regsExcept_setRegAndFlag (s : State) (x : RegIdx) (v c : Byte) :
    RegsExcept [x, 0xF] s (s.setRegAndFlag x v c) := by
  intro r hr
  obtain ⟨hx, hF⟩ : r ≠ x ∧ r ≠ 0xF := by simpa using hr
  simp [hx, hF]

/-- A state that differs in the register file alone. -/
theorem frameExcept_withV (s : State) (regs : Vector Byte 16) : FrameExcept [.V] s { s with V := regs } := by
  intro p hp
  cases p
  case V => exact absurd (List.mem_singleton.mpr rfl) hp
  all_goals simp [SamePart]

theorem frameExcept_setReg (s : State) (x : RegIdx) (v : Byte) : FrameExcept [.V] s (s.setReg x v) :=
  frameExcept_withV s _

theorem frameExcept_setRegAndFlag (s : State) (x : RegIdx) (v c : Byte) :
    FrameExcept [.V] s (s.setRegAndFlag x v c) :=
  frameExcept_withV s _

/-! ## Results and flags as numbers, R10 and R130 -/

@[simp] theorem trunc8_toNat (v : Nat) : (trunc8 v).toNat = v % 256 := BitVec.toNat_ofNat v 8

/-- The difference is formed 256 higher, so that the subtraction of naturals never stops at 0. -/
theorem trunc8_add256_sub_toNat (p q : Byte) :
    ((trunc8 (p.toNat + 256 - q.toNat)).toNat : Int) = ((p.toNat : Int) - q.toNat) % 256 := by
  have hq : q.toNat < 256 := q.isLt
  rw [trunc8_toNat]
  omega

theorem trunc8_shiftRight_one_toNat (p : Byte) : (trunc8 (p.toNat >>> 1)).toNat = p.toNat / 2 := by
  have hp : p.toNat < 256 := p.isLt
  rw [trunc8_toNat, Nat.shiftRight_one]
  omega

theorem trunc8_shiftLeft_one_toNat (p : Byte) :
    (trunc8 (p.toNat <<< 1)).toNat = 2 * p.toNat % 256 := by
  rw [trunc8_toNat, Nat.shiftLeft_eq, pow_one, Nat.mul_comm]

@[simp] theorem flagByte_toNat (c : Bool) : (flagByte c).toNat = if c then 1 else 0 := by
  cases c <;> rfl

theorem carryFlag_toNat (p q : Byte) :
    (carryFlag p q).toNat = if 255 < p.toNat + q.toNat then 1 else 0 := by
  simp [carryFlag]

theorem noBorrowFlag_toNat (p q : Byte) :
    (noBorrowFlag p q).toNat = if q.toNat ≤ p.toNat then 1 else 0 := by
  simp [noBorrowFlag]

theorem lowBitFlag_toNat (p : Byte) : (lowBitFlag p).toNat = p.toNat % 2 := by
  rw [lowBitFlag, flagByte_toNat, BitVec.getLsbD, Nat.testBit_zero]
  simp only [decide_eq_true_eq]
  split_ifs <;> omega

theorem highBitFlag_toNat (p : Byte) : (highBitFlag p).toNat = p.toNat / 128 := by
  have hp : p.toNat < 256 := p.isLt
  rw [highBitFlag, flagByte_toNat, BitVec.getLsbD, Nat.testBit_eq_decide_div_mod_eq]
  simp only [decide_eq_true_eq]
  split_ifs <;> omega

/-! ## What the instructions answer -/

theorem exec_ldImm (x : RegIdx) (kk : Byte) (s : State) :
    exec (.ldImm x kk) s = .next (s.setReg x kk) := rfl

theorem exec_addImm (x : RegIdx) (kk : Byte) (s : State) :
    exec (.addImm x kk) s = .next (s.setReg x (trunc8 ((s.reg x).toNat + kk.toNat))) := rfl

theorem exec_addReg (x y : RegIdx) (s : State) :
    exec (.addReg x y) s = .next (s.setRegAndFlag x
      (trunc8 ((s.reg x).toNat + (s.reg y).toNat)) (carryFlag (s.reg x) (s.reg y))) := rfl

theorem exec_sub (x y : RegIdx) (s : State) :
    exec (.sub x y) s = .next (s.setRegAndFlag x
      (trunc8 ((s.reg x).toNat + 256 - (s.reg y).toNat)) (noBorrowFlag (s.reg x) (s.reg y))) := rfl

theorem exec_subn (x y : RegIdx) (s : State) :
    exec (.subn x y) s = .next (s.setRegAndFlag x
      (trunc8 ((s.reg y).toNat + 256 - (s.reg x).toNat)) (noBorrowFlag (s.reg y) (s.reg x))) := rfl

theorem exec_shr (x y : RegIdx) (s : State) :
    exec (.shr x y) s = .next (s.setRegAndFlag x
      (trunc8 ((s.reg x).toNat >>> 1)) (lowBitFlag (s.reg x))) := rfl

theorem exec_shl (x y : RegIdx) (s : State) :
    exec (.shl x y) s = .next (s.setRegAndFlag x
      (trunc8 ((s.reg x).toNat <<< 1)) (highBitFlag (s.reg x))) := rfl

/-! ## The obligations -/

/-- Settles O28: both immediates answer a single register write, whose frame is `V[x]`. -/
theorem immediatesLoadAndAdd : Obligations.ImmediatesLoadAndAdd := by
  intro x kk s
  refine ⟨decode_wordXKK_6 x kk, decode_wordXKK_7 x kk,
    ⟨_, exec_ldImm x kk s, s.setReg_reg_same x kk, regsExcept_setReg s x _, frameExcept_setReg s x _⟩,
    ⟨_, exec_addImm x kk s, ?sum, regsExcept_setReg s x _, frameExcept_setReg s x _⟩⟩
  case sum => rw [State.setReg_reg_same, trunc8_toNat]

/-- An instruction that answers `setRegAndFlag` leaves its result in `V[x]` unless the flag overwrites it, its
flag in VF, and all else alone (R130). `result` is what the instruction's rule says of the byte it computes. -/
theorem setRegAndFlag_of_exec {i : Instr} {x : RegIdx} {v c : Byte} {s : State} {flag : Nat}
    (hexec : exec i s = .next (s.setRegAndFlag x v c)) (result : Byte → Prop)
    (hresult : result v) (hflag : c.toNat = flag) :
    ∃ t : State, exec i s = .next t ∧ (x ≠ 0xF → result (t.reg x)) ∧ (t.reg 0xF).toNat = flag ∧
      RegsExcept [x, 0xF] s t ∧ FrameExcept [.V] s t :=
  ⟨_, hexec, fun hx => (s.setRegAndFlag_reg_dest hx v c).symm ▸ hresult,
    (s.setRegAndFlag_reg_flag x v c).symm ▸ hflag,
    regsExcept_setRegAndFlag s x v c, frameExcept_setRegAndFlag s x v c⟩

/-- Settles O30: the untruncated sum gives both the result and the carry. -/
theorem addStoresSumAndCarry : Obligations.AddStoresSumAndCarry := fun x y s =>
  ⟨decode_wordXYN_8_4 x y,
    setRegAndFlag_of_exec (exec_addReg x y s) (result := fun b => b.toNat = _)
      (trunc8_toNat _) (carryFlag_toNat _ _)⟩

/-- Settles O31: `V[x] - V[y]` and its no-borrow flag. -/
theorem subStoresDifferenceAndNoBorrow : Obligations.SubStoresDifferenceAndNoBorrow := fun x y s =>
  ⟨decode_wordXYN_8_5 x y,
    setRegAndFlag_of_exec (exec_sub x y s) (result := fun b => (b.toNat : Int) = _)
      (trunc8_add256_sub_toNat _ _) (noBorrowFlag_toNat _ _)⟩

/-- Settles O32: SUB's two facts with the operands exchanged. -/
theorem subnStoresDifferenceAndNoBorrow : Obligations.SubnStoresDifferenceAndNoBorrow := fun x y s =>
  ⟨decode_wordXYN_8_7 x y,
    setRegAndFlag_of_exec (exec_subn x y s) (result := fun b => (b.toNat : Int) = _)
      (trunc8_add256_sub_toNat _ _) (noBorrowFlag_toNat _ _)⟩

/-- Settles O33: a right shift by one halves, and bit 0 is the remainder. -/
theorem shiftRightHalves : Obligations.ShiftRightHalves := fun x y s =>
  ⟨decode_wordXYN_8_6 x y,
    setRegAndFlag_of_exec (exec_shr x y s) (result := fun b => b.toNat = _)
      (trunc8_shiftRight_one_toNat _) (lowBitFlag_toNat _)⟩

/-- Settles O34: a left shift by one doubles, and bit 7 is the quotient by 128. -/
theorem shiftLeftDoubles : Obligations.ShiftLeftDoubles := fun x y s =>
  ⟨decode_wordXYN_8_E x y,
    setRegAndFlag_of_exec (exec_shl x y s) (result := fun b => b.toNat = _)
      (trunc8_shiftLeft_one_toNat _) (highBitFlag_toNat _)⟩

end Machine

end Sys2Proof
end

section
/-! PROOF. The statements of 43_index_memory.md: the load of the index register. -/

namespace Sys2Proof

/-! ## Decoding family A, R83 -/

@[simp] theorem decode_wordNNN_A (nnn : Addr12) : decode (wordNNN 0xA nnn) = .ldI nnn := by
  simp [decode]

namespace Machine

/-! ## The frame of a write to `I` -/

/-- A write of the index register writes `I` alone. -/
theorem frameExcept_setI (s : State) (v : Word) : FrameExcept [.I] s (s.setI v) := by
  intro p hp
  cases p
  case I => exact absurd (List.mem_singleton.mpr rfl) hp
  all_goals simp [SamePart]

/-! ## What the instruction answers -/

theorem exec_ldI (nnn : Addr12) (s : State) : exec (.ldI nnn) s = .next (s.setI (addrOf nnn)) := rfl

/-! ## The obligation -/

/-- Settles O36: the load answers one write of `I`, with `nnn` zero-extended (R171). -/
theorem setIndexLoadsTheAddress : Obligations.SetIndexLoadsTheAddress := by
  refine fun nnn s => ⟨decode_wordNNN_A nnn, _, exec_ldI nnn s, ?value, frameExcept_setI s _⟩
  case value => rw [State.setI_I, addrOf_toNat]

end Machine

end Sys2Proof
end

section
/-! PROOF. The statements of 44_display.md: the clear of the screen. -/

namespace Sys2Proof

/-! ## Decoding CLS, R84 -/

/-- The mask 0xF00F keeps the two fields that family 0 is keyed on, so bits 11 to 4 are free. -/
theorem decode_eq_cls_of_mask (w : Word) (h : w &&& 0xF00F = 0x0000) : decode w = .cls := by
  have hop : (opField w).toNat = 0x0 := by rw [← opField_mask, h]; decide
  have hn : (nField w).val = 0x0 := by rw [← nField_mask, h]; decide
  rw [decode_eq_decodeFamily0 w hop]
  simp only [decodeFamily0, hn]

namespace Machine

/-! ## The frame of a write to the framebuffer -/

/-- A new framebuffer raises `redraw`, and writes nothing but the two. -/
theorem frameExcept_touchFb (s : State) (g : Framebuffer) : FrameExcept [.fb, .redraw] s (s.touchFb g) := by
  intro p hp
  cases p
  case fb => exact absurd List.mem_cons_self hp
  case redraw => exact absurd (List.mem_cons_of_mem _ List.mem_cons_self) hp
  all_goals simp [SamePart]

/-! ## What the instruction answers -/

theorem exec_cls (s : State) : exec .cls s = .next (s.touchFb Framebuffer.blank) := rfl

/-! ## The obligation -/

/-- Settles O44: CLS answers one write of the blank framebuffer (R200). -/
theorem clearScreenUnlightsEveryPixel : Obligations.ClearScreenUnlightsEveryPixel := by
  refine ⟨fun s => ⟨_, exec_cls s, ?unlit, s.touchFb_redraw _, frameExcept_touchFb s _⟩,
    decode_eq_cls_of_mask⟩
  case unlit =>
    intro row col _ _
    rw [State.touchFb_fb, Framebuffer.pixel_blank]

end Machine

end Sys2Proof
end

section
/-! PROOF. The statements of 45_timers_input.md: the three moves between a register and a timer. -/

namespace Sys2Proof

/-! ## Decoding family F, R87 -/

/-- Family F reads the fields of its format, so a row is found by the last byte alone (R87). -/
theorem decode_wordXKK_F (x : RegIdx) (kk : Byte) :
    decode (wordXKK 0xF x kk) = decodeFamilyF (wordXKK 0xF x kk) :=
  decode_eq_decodeFamilyF _ (by simp)

theorem decode_wordXKK_F_07 (x : RegIdx) : decode (wordXKK 0xF x 0x07) = .ldVxDt x :=
  (decode_wordXKK_F x 0x07).trans (by simp [decodeFamilyF])

theorem decode_wordXKK_F_15 (x : RegIdx) : decode (wordXKK 0xF x 0x15) = .ldDtVx x :=
  (decode_wordXKK_F x 0x15).trans (by simp [decodeFamilyF])

theorem decode_wordXKK_F_18 (x : RegIdx) : decode (wordXKK 0xF x 0x18) = .ldStVx x :=
  (decode_wordXKK_F x 0x18).trans (by simp [decodeFamilyF])

namespace Machine

/-! ## The frames of the timer writes, and the tone -/

/-- A write of the delay timer writes `DT` alone. -/
theorem frameExcept_setDT (s : State) (v : Byte) : FrameExcept [.DT] s (s.setDT v) := by
  intro p hp
  cases p
  case DT => exact absurd (List.mem_singleton.mpr rfl) hp
  all_goals simp [SamePart]

/-- A write of the sound timer writes `ST` alone. -/
theorem frameExcept_setST (s : State) (v : Byte) : FrameExcept [.ST] s (s.setST v) := by
  intro p hp
  cases p
  case ST => exact absurd (List.mem_singleton.mpr rfl) hp
  all_goals simp [SamePart]

/-- The tone is a read of `ST` (R29, R255). -/
theorem State.tone_iff (s : State) : s.tone = true ↔ s.ST ≠ 0 := bne_iff_ne

/-- A write of the sound timer turns the tone on or off at once (R225). -/
theorem State.setST_tone_iff (s : State) (v : Byte) : (s.setST v).tone = true ↔ v ≠ 0 := by
  rw [State.tone_iff, State.setST_ST]

/-! ## What the instructions answer -/

theorem exec_ldVxDt (x : RegIdx) (s : State) : exec (.ldVxDt x) s = .next (s.setReg x s.DT) := rfl

theorem exec_ldDtVx (x : RegIdx) (s : State) : exec (.ldDtVx x) s = .next (s.setDT (s.reg x)) := rfl

theorem exec_ldStVx (x : RegIdx) (s : State) : exec (.ldStVx x) s = .next (s.setST (s.reg x)) := rfl

/-! ## The obligation -/

/-- Settles O50: each instruction answers one write, of a register or of a timer, and the tone follows the
write of `ST` (R222, R224, R225). -/
theorem timerInstructionsMoveTheirByte : Obligations.TimerInstructionsMoveTheirByte := by
  refine fun x s => ⟨decode_wordXKK_F_07 x, decode_wordXKK_F_15 x, decode_wordXKK_F_18 x,
    ?readDelay, ?setDelay, ?setSound⟩
  case readDelay =>
    exact ⟨_, exec_ldVxDt x s, s.setReg_reg_same x _, regsExcept_setReg s x _, frameExcept_setReg s x _⟩
  case setDelay => exact ⟨_, exec_ldDtVx x s, s.setDT_DT _, frameExcept_setDT s _⟩
  case setSound =>
    exact ⟨_, exec_ldStVx x s, s.setST_ST _, s.setST_tone_iff _, frameExcept_setST s _⟩

end Machine

end Sys2Proof
end

section
/-! PROOF. The statements of 60_exceptions.md: the tone, the key write and the consumed frame. -/

namespace Sys2Proof.Machine

/-! ## The host's writes, R256 and R257 -/

/-- The latch a key write names holds the value written. -/
theorem writeKey_key_same (k : Fin 16) (pressed : Bool) (s : State) :
    (writeKey k pressed s).key[k] = pressed := by
  simp only [writeKey_key, Fin.getElem_fin, Vector.getElem_set_self]

/-- A key write leaves every other latch. -/
theorem writeKey_key_other {j k : Fin 16} (hne : j ≠ k) (pressed : Bool) (s : State) :
    (writeKey k pressed s).key[j] = s.key[j] := by
  have hval : k.val ≠ j.val := fun h => hne (Fin.ext h.symm)
  simp only [writeKey_key, Fin.getElem_fin, Vector.getElem_set_ne _ _ hval]

/-- A key write writes the latches alone. -/
theorem frameExcept_writeKey (k : Fin 16) (pressed : Bool) (s : State) :
    FrameExcept [.key] s (writeKey k pressed s) := by
  intro p hp
  cases p
  case key => exact absurd (List.mem_singleton.mpr rfl) hp
  all_goals simp [SamePart]

/-- Consuming a frame writes `redraw` alone. -/
theorem frameExcept_consumeFrame (s : State) : FrameExcept [.redraw] s (consumeFrame s) := by
  intro p hp
  cases p
  case redraw => exact absurd (List.mem_singleton.mpr rfl) hp
  all_goals simp [SamePart]

/-- The presentation layer reads the pixels and `redraw`. -/
theorem State.frame_eq (s : State) : s.frame = (s.fb, s.redraw) := rfl

/-! ## The core only reads the latches, R30 and R256 -/

/-- Whatever next state is answered, its latches are those of `s`. -/
def KeepsKey (s : State) (answer : Answer) : Prop := ∀ t : State, answer = .next t → t.key = s.key

theorem keepsKey_next {s t : State} (h : t.key = s.key) : KeepsKey s (.next t) := by
  rintro _ ⟨⟩
  exact h

/-- A transfer takes a fault or answers the state it was given. -/
theorem keepsKey_transfer {s t : State} (h : t.key = s.key) (len : Nat) :
    KeepsKey s (s.transfer len t) := by
  rw [State.transfer_eq]
  split
  · exact keepsKey_next rfl
  · exact keepsKey_next h

/-- A key instruction takes a fault or answers the state that it gives for its latch. -/
theorem keepsKey_withKey {s : State} {t : Bool → State} (h : ∀ pressed, (t pressed).key = s.key)
    (x : RegIdx) : KeepsKey s (s.withKey x t) := by
  rw [State.withKey_eq]
  split
  · exact keepsKey_next (h _)
  · exact keepsKey_next rfl

theorem keepsKey_ret (s : State) : KeepsKey s (exec .ret s) := by
  rw [exec_ret_eq]
  split_ifs
  · exact keepsKey_next rfl
  · exact keepsKey_next rfl
  · exact fun _ h => nomatch h

theorem keepsKey_call (nnn : Addr12) (s : State) : KeepsKey s (exec (.call nnn) s) := by
  rw [exec_call_eq]
  split <;> exact keepsKey_next rfl

/-- The wait for a key only looks for a latch that is set (decision D15). -/
theorem keepsKey_ldVxK (x : RegIdx) (s : State) : KeepsKey s (exec (.ldVxK x) s) := by
  rw [exec_ldVxK_eq]
  cases s.leastKey <;> exact keepsKey_next rfl

/-- No instruction writes a latch: the ones with a branch by what their shared operation answers, and all
others by the one next state they answer. -/
theorem keepsKey_exec (i : Instr) (s : State) : KeepsKey s (exec i s) := by
  cases i
  case ret => exact keepsKey_ret s
  case call nnn => exact keepsKey_call nnn s
  case ldVxK x => exact keepsKey_ldVxK x s
  case skp x => exact keepsKey_withKey (fun _ => s.skipIf_key _) x
  case sknp x => exact keepsKey_withKey (fun _ => s.skipIf_key _) x
  case drw | ldB | ldMemVx | ldVxMem =>
    refine keepsKey_transfer ?_ _
    rfl
  case seImm | sneImm | seReg | sneReg => exact keepsKey_next (s.skipIf_key _)
  all_goals exact keepsKey_next rfl

/-- A step keeps the latches: it stays, takes the fetch fault, or executes on the advanced state. -/
theorem keepsKey_step (s : State) : KeepsKey s (step s) := by
  intro t h
  obtain ⟨-, rfl⟩ | ⟨-, -, rfl⟩ | ⟨-, -, hexec⟩ := step_cases s t h
  · rfl
  · exact s.takeFault_key _ _
  · exact (keepsKey_exec _ _ t hexec).trans s.advance_key

/-! ## The obligations -/

/-- Settles O53: each host write is one field update, and neither the step nor the tick writes a latch. -/
theorem hostWritesLatchesAndClearsRedraw : Obligations.HostWritesLatchesAndClearsRedraw :=
  fun k pressed s =>
    ⟨writeKey_key_same k pressed s, fun _ hne => writeKey_key_other hne pressed s,
      frameExcept_writeKey k pressed s, keepsKey_step s, tick_key s, s.frame_eq, consumeFrame_redraw s,
      frameExcept_consumeFrame s⟩

/-- Settles O52: `tone_iff`, with `ST` compared as a number. -/
theorem toneFollowsTheSoundTimer : Obligations.ToneFollowsTheSoundTimer := fun s =>
  s.tone_iff.trans BitVec.toNat_inj.not.symm

end Sys2Proof.Machine
end

section
/-! PROOF. The statements of 70_reset_and_hazards.md: the program load. -/

namespace Sys2Proof.Machine

/-! ## The frame of a write to memory -/

/-- A new memory writes memory alone. -/
theorem frameExcept_setMem (s : State) (m : Memory) : FrameExcept [.mem] s (s.setMem m) := by
  intro p hp
  cases p
  case mem => exact absurd List.mem_cons_self hp
  all_goals simp [SamePart]

/-! ## Bytes written into memory, R54 -/

section
variable (s : State) (hwf : Memory.wf s.mem = true) (a : Nat) (vs : List Byte)
  (h : a + vs.length ≤ 0x1000)
include hwf h

/-- Byte `j` of a list written upward from `a` is read back at `a + j`. -/
theorem read_setMem_writeBytes {j : Nat} (hj : j < vs.length) :
    some (Memory.read (s.setMem (Memory.writeBytes s.mem a vs)).mem (a + j)) = vs[j]? := by
  rw [State.setMem_mem, Memory.read_writeBytes s.mem hwf a vs h, if_pos (by omega),
    Nat.add_sub_cancel_left, List.getElem?_eq_getElem hj, List.getD_eq_getElem _ _ hj]

/-- Bytes written upward from `a` leave every byte outside their range. -/
theorem memExcept_setMem_writeBytes :
    MemExcept a vs.length s (s.setMem (Memory.writeBytes s.mem a vs)) := by
  intro b hb
  rw [State.setMem_mem, Memory.read_writeBytes s.mem hwf a vs h, if_neg (by omega)]

end

/-! ## What the load answers, R281 -/

/-- The state after a load that succeeds: the state of reset with the image at 0x200 and upward. -/
def loaded (bytes : List Byte) (s : State) : State :=
  (reset s).setMem (Memory.writeBytes (reset s).mem 0x200 bytes)

theorem loadProgram_of_gt {bytes : List Byte} (h : 3584 < bytes.length) (s : State) :
    loadProgram bytes s = .imageTooLarge := if_pos h

theorem loadProgram_of_le {bytes : List Byte} (h : bytes.length ≤ 3584) (s : State) :
    loadProgram bytes s = .ok (loaded bytes s) := if_neg (Nat.not_lt.mpr h)

theorem hostEvent_load_of_gt {bytes : List Byte} (h : 3584 < bytes.length) (s : State) :
    hostEvent (.load bytes) s = .next s := by
  rw [hostEvent, loadProgram_of_gt h]

theorem hostEvent_load_of_le {bytes : List Byte} (h : bytes.length ≤ 3584) (s : State) :
    hostEvent (.load bytes) s = .next (loaded bytes s) := by
  rw [hostEvent, loadProgram_of_le h]

/-! ## The obligation -/

/-- Settles O55: above 3584 bytes the size check refuses; up to there the image ends by 0x1000, so the copy
into the memory of reset reads back inside its range and leaves the rest (R281). -/
theorem loadProgramResetsAndCopies : Obligations.LoadProgramResetsAndCopies := by
  refine fun bytes s => ⟨fun h => ⟨loadProgram_of_gt h s, hostEvent_load_of_gt h s⟩, fun h => ?_⟩
  have hwf : Memory.wf (reset s).mem = true := rfl
  have hend : 0x200 + bytes.length ≤ 0x1000 := by omega
  exact ⟨loaded bytes s, loadProgram_of_le h s, hostEvent_load_of_le h s, frameExcept_setMem _ _,
    fun _ hj => read_setMem_writeBytes _ hwf 0x200 bytes hend hj,
    memExcept_setMem_writeBytes _ hwf 0x200 bytes hend⟩

end Sys2Proof.Machine
end

section
/-! PROOF. What every instruction answers, said once: the fault it owes, or the state it leaves. -/

namespace Sys2Proof.Machine

/-! ## The fault and the effect of an instruction -/

/-- The fault an instruction owes in the state after the advance (60_exceptions.md R242). -/
def faultOf (i : Instr) (s : State) : Option (FaultCause × Nat) :=
  match i with
  | .call _ => if 16 ≤ s.sp.toNat then some (.stackOverflow, s.sp.toNat) else none
  | .ret => if s.sp = 0 then some (.stackUnderflow, 0) else none
  | .skp x | .sknp x => if 16 ≤ (s.reg x).toNat then some (.keyRange, (s.reg x).toNat) else none
  | .ldB _ => if 0x1000 < s.I.toNat + 3 then some (.memRange, max s.I.toNat 0x1000) else none
  | .ldMemVx x | .ldVxMem x =>
    if 0x1000 < s.I.toNat + (x.val + 1) then some (.memRange, max s.I.toNat 0x1000) else none
  | .drw _ _ n =>
    if 0 < n.val ∧ 0x1000 < s.I.toNat + n.val then some (.memRange, max s.I.toNat 0x1000) else none
  | .cls | .jp _ | .seImm _ _ | .sneImm _ _ | .seReg _ _ | .sneReg _ _ => none
  | .ldImm _ _ | .addImm _ _ | .ldReg _ _ | .or _ _ | .and _ _ | .xor _ _ => none
  | .addReg _ _ | .sub _ _ | .shr _ _ | .subn _ _ | .shl _ _ | .rnd _ _ => none
  | .ldI _ | .jpV0 _ | .ldVxDt _ | .ldVxK _ | .ldDtVx _ | .ldStVx _ => none
  | .addI _ | .ldF _ | .nop _ => none

/-- The state an instruction leaves when it owes no fault. -/
def effect (i : Instr) (s : State) : State :=
  match i with
  | .cls => s.touchFb .blank
  | .ret => s.drop.jump ((s.stackAt (s.sp.toNat - 1)).getD 0)
  | .jp nnn => s.jump (addrOf nnn)
  | .call nnn => (s.push s.pc).jump (addrOf nnn)
  | .seImm x kk => s.skipIf (s.reg x == kk)
  | .sneImm x kk => s.skipIf (s.reg x != kk)
  | .seReg x y => s.skipIf (s.reg x == s.reg y)
  | .sneReg x y => s.skipIf (s.reg x != s.reg y)
  | .ldImm x kk => s.setReg x kk
  | .addImm x kk => s.setReg x (trunc8 ((s.reg x).toNat + kk.toNat))
  | .ldReg x y => s.setReg x (s.reg y)
  | .or x y => s.setReg x (s.reg x ||| s.reg y)
  | .and x y => s.setReg x (s.reg x &&& s.reg y)
  | .xor x y => s.setReg x (s.reg x ^^^ s.reg y)
  | .addReg x y =>
    s.setRegAndFlag x (trunc8 ((s.reg x).toNat + (s.reg y).toNat)) (carryFlag (s.reg x) (s.reg y))
  | .sub x y =>
    s.setRegAndFlag x (trunc8 ((s.reg x).toNat + 256 - (s.reg y).toNat)) (noBorrowFlag (s.reg x) (s.reg y))
  | .subn x y =>
    s.setRegAndFlag x (trunc8 ((s.reg y).toNat + 256 - (s.reg x).toNat)) (noBorrowFlag (s.reg y) (s.reg x))
  | .shr x _ => s.setRegAndFlag x (trunc8 ((s.reg x).toNat >>> 1)) (lowBitFlag (s.reg x))
  | .shl x _ => s.setRegAndFlag x (trunc8 ((s.reg x).toNat <<< 1)) (highBitFlag (s.reg x))
  | .ldI nnn => s.setI (addrOf nnn)
  | .jpV0 nnn => s.jump (trunc16 (nnn.toNat + (s.reg 0).toNat))
  | .rnd x kk => s.countDraw.setReg x (s.drawn &&& kk)
  | .drw x y n =>
    (s.touchFb (drawnCanvas x y n s).1).setReg Config.flagReg (flagByte (drawnCanvas x y n s).2)
  | .skp x => s.skipIf (s.key[(s.reg x).toNat]?.getD false)
  | .sknp x => s.skipIf (!s.key[(s.reg x).toNat]?.getD false)
  | .ldVxDt x => s.setReg x s.DT
  | .ldVxK x => (s.leastKey.map fun k => s.setReg x (trunc8 k.val)).getD s.rewind
  | .ldDtVx x => s.setDT (s.reg x)
  | .ldStVx x => s.setST (s.reg x)
  | .addI x => s.setI (trunc16 (s.I.toNat + (s.reg x).toNat))
  | .ldF x => s.setI (glyphAddr (s.reg x))
  | .ldB x => s.setMem (Memory.writeBytes s.mem s.I.toNat (bcdDigits (s.reg x)))
  | .ldMemVx x => s.setMem (Memory.writeBytes s.mem s.I.toNat (s.regsUpTo x))
  | .ldVxMem x => s.loadRegs x
  | .nop _ => s

/-- The next state of an instruction: the latched fault it owes, or its effect. -/
def outcome (i : Instr) (s : State) : State :=
  (faultOf i s).elim (effect i s) fun due => s.rewind.takeFault due.1 due.2

theorem outcome_of_due {i : Instr} {s : State} {due : FaultCause × Nat} (h : faultOf i s = some due) :
    outcome i s = s.rewind.takeFault due.1 due.2 := by
  rw [outcome, h, Option.elim_some]

theorem outcome_of_none {i : Instr} {s : State} (h : faultOf i s = none) : outcome i s = effect i s := by
  rw [outcome, h, Option.elim_none]

/-! ## `exec` answers the outcome -/

/-- An answer that takes the fault owed under its condition, and else has the effect, is the outcome. -/
theorem exec_eq_of_ite {i : Instr} {s t : State} {cause : FaultCause} {info : Nat} {c : Prop} [Decidable c]
    (hexec : exec i s = if c then .next (s.rewind.takeFault cause info) else .next t) (heffect : t = effect i s)
    (hdue : faultOf i s = if c then some (cause, info) else none) : exec i s = .next (outcome i s) := by
  rw [hexec, heffect]
  by_cases hc : c
  · rw [if_pos hc] at hdue ⊢
    rw [outcome_of_due hdue]
  · rw [if_neg hc] at hdue ⊢
    rw [outcome_of_none hdue]

/-- A transfer of at least one byte, with the condition as `faultOf` has it. -/
theorem State.transfer_succ_eq (s : State) (len : Nat) (t : State) :
    s.transfer (len + 1) t =
      if 0x1000 < s.I.toNat + (len + 1) then .next (s.rewind.takeFault .memRange (max s.I.toNat 0x1000))
      else .next t := by
  rw [State.transfer_eq]
  simp only [Nat.succ_pos, true_and]

/-- A key instruction, with the condition as `faultOf` has it and the latch as `effect` reads it. -/
theorem State.withKey_eq_ite (s : State) (x : RegIdx) (t : Bool → State) :
    s.withKey x t =
      if 16 ≤ (s.reg x).toNat then .next (s.rewind.takeFault .keyRange (s.reg x).toNat)
      else .next (t (s.key[(s.reg x).toNat]?.getD false)) := by
  rw [State.withKey_eq]
  by_cases h : (s.reg x).toNat < 16
  · rw [dif_pos h, if_neg (Nat.not_le.mpr h), Vector.getElem?_eq_getElem h, Option.getD_some]
  · rw [dif_neg h, if_pos (Nat.le_of_not_lt h)]

/-- A return with at most 16 addresses held pops the entry that `stackAt` finds. -/
theorem exec_ret_eq_ite {s : State} (hsp : s.sp.toNat ≤ 16) :
    exec .ret s =
      if s.sp = 0 then .next (s.rewind.takeFault .stackUnderflow 0)
      else .next (s.drop.jump ((s.stackAt (s.sp.toNat - 1)).getD 0)) := by
  have hzero : s.sp = 0 ↔ s.sp.toNat = 0 := by rw [← BitVec.toNat_inj]; rfl
  rw [exec_ret_eq]
  by_cases h0 : s.sp.toNat = 0
  · rw [if_pos h0, if_pos (hzero.mpr h0)]
  · have hlt : s.sp.toNat - 1 < 16 := by omega
    rw [if_neg h0, if_neg (mt hzero.mp h0), dif_pos hlt, State.stackAt, Vector.getElem?_eq_getElem hlt,
      Option.getD_some]

/-- Every instruction answers its outcome; RET needs `sp` in the range of 10_state.md R26. -/
theorem exec_eq_outcome (i : Instr) (s : State) (hsp : i = .ret → s.sp.toNat ≤ 16) :
    exec i s = .next (outcome i s) := by
  cases i
  case ret => exact exec_eq_of_ite (exec_ret_eq_ite (hsp rfl)) rfl rfl
  case call nnn => exact exec_eq_of_ite (exec_call_eq nnn s) rfl rfl
  case skp x | sknp x => exact exec_eq_of_ite (s.withKey_eq_ite x _) rfl rfl
  case ldVxK x => exact exec_ldVxK_eq x s
  case ldB | ldMemVx | ldVxMem => exact exec_eq_of_ite (s.transfer_succ_eq _ _) rfl rfl
  case drw x y n => exact exec_eq_of_ite (exec_drw_eq x y n s) rfl rfl
  all_goals rfl

theorem exec_ret_above {s : State} (h : 16 < s.sp.toNat) :
    exec .ret s = .fault .stackPointerOutOfRange := by
  rw [exec_ret_eq, if_neg (by omega), dif_neg (by omega)]

/-- An answered next state rules the stop of RET out. -/
theorem sp_le_of_exec {i : Instr} {s t : State} (h : exec i s = .next t) (hret : i = .ret) :
    s.sp.toNat ≤ 16 := by
  subst hret
  by_contra hgt
  rw [exec_ret_above (Nat.lt_of_not_le hgt)] at h
  exact nomatch h

/-- A next state answered by `exec` is the outcome. -/
theorem eq_outcome_of_exec {i : Instr} {s t : State} (h : exec i s = .next t) : t = outcome i s :=
  Host.Outcome.next.inj (h.symm.trans (exec_eq_outcome i s (sp_le_of_exec h)))

/-- All that `exec` can answer with a next state: the fault owed, taken; or, with none owed, the effect. -/
theorem exec_cases {i : Instr} {s t : State} (h : exec i s = .next t) :
    (∃ due : FaultCause × Nat, faultOf i s = some due ∧ t = s.rewind.takeFault due.1 due.2) ∨
    (faultOf i s = none ∧ t = effect i s) := by
  cases hdue : faultOf i s with
  | some due => exact .inl ⟨due, rfl, (eq_outcome_of_exec h).trans (outcome_of_due hdue)⟩
  | none => exact .inr ⟨rfl, (eq_outcome_of_exec h).trans (outcome_of_none hdue)⟩

end Sys2Proof.Machine
end

section
/-! PROOF. What an instruction may write: the frame of every effect, by parts and by registers. -/

namespace Sys2Proof.Machine

/-! ## Frames compose -/

theorem FrameExcept.mono {ps qs : List StatePart} {s t : State} (h : FrameExcept ps s t) (hsub : ps ⊆ qs) :
    FrameExcept qs s t := fun p hp => h p fun hmem => hp (hsub hmem)

theorem SamePart.trans {s t u : State} {p : StatePart} (h : SamePart s t p) (k : SamePart t u p) :
    SamePart s u p := by
  cases p
  case V | mem => exact fun a => (k a).trans (h a)
  all_goals exact Eq.trans k h

/-- Two writes in turn write the parts of both. -/
theorem FrameExcept.append {ps qs : List StatePart} {s t u : State} (h : FrameExcept ps s t)
    (k : FrameExcept qs t u) : FrameExcept (ps ++ qs) s u := fun p hp =>
  (h p fun hmem => hp (List.mem_append_left _ hmem)).trans (k p fun hmem => hp (List.mem_append_right _ hmem))

theorem FrameExcept.regsExcept {ps : List StatePart} {s t : State} (h : FrameExcept ps s t)
    (hV : StatePart.V ∉ ps) (rs : List RegIdx) : RegsExcept rs s t := fun r _ => h .V hV r

/-! ## The frames of the stack writes and of the draw count -/

theorem frameExcept_push (s : State) (v : Word) : FrameExcept [.stack, .sp] s (s.push v) := by
  intro p hp
  cases p
  case stack => exact absurd List.mem_cons_self hp
  case sp => exact absurd (List.mem_cons_of_mem _ List.mem_cons_self) hp
  all_goals simp [SamePart]

theorem frameExcept_drop (s : State) : FrameExcept [.sp] s s.drop := by
  intro p hp
  cases p
  case sp => exact absurd List.mem_cons_self hp
  all_goals simp [SamePart]

theorem frameExcept_countDraw (s : State) : FrameExcept [.draws] s s.countDraw := by
  intro p hp
  cases p
  case draws => exact absurd List.mem_cons_self hp
  all_goals simp [SamePart]

/-- A call pushes and jumps. -/
theorem frameExcept_pushJump (s : State) (v target : Word) :
    FrameExcept [.stack, .sp, .pc] s ((s.push v).jump target) :=
  (frameExcept_push s v).append (frameExcept_jump _ target)

/-- A return drops and jumps. -/
theorem frameExcept_dropJump (s : State) (target : Word) : FrameExcept [.sp, .pc] s (s.drop.jump target) :=
  (frameExcept_drop s).append (frameExcept_jump _ target)

/-- A random byte counts the draw and writes its register. -/
theorem frameExcept_countDrawSetReg (s : State) (x : RegIdx) (v : Byte) :
    FrameExcept [.draws, .V] s (s.countDraw.setReg x v) :=
  (frameExcept_countDraw s).append (frameExcept_setReg _ x v)

/-- A draw touches the framebuffer and writes its flag. -/
theorem frameExcept_touchFbSetReg (s : State) (g : Framebuffer) (x : RegIdx) (v : Byte) :
    FrameExcept [.fb, .redraw, .V] s ((s.touchFb g).setReg x v) :=
  (frameExcept_touchFb s g).append (frameExcept_setReg _ x v)

/-! ## The frame of every effect -/

/-- The wait for a key writes its register, or goes back. -/
theorem frameExcept_effect_ldVxK (x : RegIdx) (s : State) : FrameExcept [.V, .pc] s (effect (.ldVxK x) s) := by
  unfold effect
  cases s.leastKey with
  | some k => exact (frameExcept_setReg s x _).mono (by decide)
  | none => exact (frameExcept_jump s _).mono (by decide)

theorem frameExcept_effect (i : Instr) (s : State) : FrameExcept (partsWritten i) s (effect i s) := by
  cases i
  case cls => exact frameExcept_touchFb s _
  case ret => exact (frameExcept_dropJump s _).mono (by simp [partsWritten])
  case call nnn => exact (frameExcept_pushJump s _ _).mono (by simp [partsWritten])
  case jp | jpV0 => exact frameExcept_jump s _
  case seImm | sneImm | seReg | sneReg | skp | sknp => exact frameExcept_skipIf s _
  case ldImm | addImm | ldReg | or | and | xor | ldVxDt => exact frameExcept_setReg s _ _
  case addReg | sub | subn | shr | shl => exact frameExcept_setRegAndFlag s _ _ _
  case ldVxMem => exact frameExcept_withV s _
  case ldI | addI | ldF => exact frameExcept_setI s _
  case ldB | ldMemVx => exact frameExcept_setMem s _
  case ldDtVx => exact frameExcept_setDT s _
  case ldStVx => exact frameExcept_setST s _
  case rnd => exact (frameExcept_countDrawSetReg s _ _).mono (by simp [partsWritten])
  case drw => exact (frameExcept_touchFbSetReg s _ _ _).mono (by simp [partsWritten])
  case ldVxK x => exact frameExcept_effect_ldVxK x s
  case nop => exact fun p _ => by cases p <;> simp [effect, SamePart]

theorem regsExcept_effect_ldVxMem (x : RegIdx) (s : State) :
    RegsExcept (regsWritten (.ldVxMem x)) s (effect (.ldVxMem x) s) := by
  intro r hr
  have hx : ¬ r ≤ x := by simpa [regsWritten] using hr
  rw [effect, State.loadRegs_reg, if_neg hx]

theorem regsExcept_effect_ldVxK (x : RegIdx) (s : State) : RegsExcept [x] s (effect (.ldVxK x) s) := by
  unfold effect
  cases s.leastKey with
  | some k => exact regsExcept_setReg s x _
  | none => exact fun r _ => s.rewind_reg r

/-- An instruction that does not write `V` leaves every register; each of the others writes its own. -/
theorem regsExcept_effect (i : Instr) (s : State) : RegsExcept (regsWritten i) s (effect i s) := by
  cases i
  case ldImm | addImm | ldReg | or | and | xor | ldVxDt => exact regsExcept_setReg s _ _
  case addReg | sub | subn | shr | shl => exact regsExcept_setRegAndFlag s _ _ _
  case rnd => exact regsExcept_setReg s.countDraw _ _
  case drw => exact regsExcept_setReg (s.touchFb _) _ _
  case ldVxMem x => exact regsExcept_effect_ldVxMem x s
  case ldVxK x => exact regsExcept_effect_ldVxK x s
  all_goals exact (frameExcept_effect _ s).regsExcept (by simp [partsWritten]) _

/-! ## The obligations -/

/-- Settles O14: the effect has the frame of its instruction, and a fault taken has its own. -/
theorem instructionsWriteOnlyTheirParts : Obligations.InstructionsWriteOnlyTheirParts := by
  intro i s t h
  obtain ⟨due, -, rfl⟩ | ⟨-, rfl⟩ := exec_cases h
  · exact .inr ⟨due.1, due.2, takesFault_rewind due.1 due.2 s⟩
  · exact .inl (frameExcept_effect i s)

/-- Settles O15: the effect writes the registers of its instruction, and a fault taken writes none. -/
theorem instructionsWriteOnlyTheirRegisters : Obligations.InstructionsWriteOnlyTheirRegisters := by
  intro i s t h
  obtain ⟨due, -, rfl⟩ | ⟨-, rfl⟩ := exec_cases h
  · obtain ⟨-, -, hframe⟩ := takesFault_rewind due.1 due.2 s
    exact hframe.regsExcept (by decide) _
  · exact regsExcept_effect i s

end Sys2Proof.Machine
end

section
/-! PROOF. The statements of 30_encoding.md R81 and 60_exceptions.md R241 and R242: when a step faults, and what
the fault leaves. -/

namespace Sys2Proof.Machine

/-! ## The fault due is the fault of the fetched instruction -/

theorem faultDue_outside {s : State} (hpc : 0xFFE < s.pc.toNat) :
    faultDue s = some (.fetchRange, max s.pc.toNat 0x1000) := if_pos hpc

/-- No condition of R242 but the fetch reads `pc`, so the advance does not matter. -/
theorem faultDue_inside {s : State} (hpc : ¬ 0xFFE < s.pc.toNat) :
    faultDue s = faultOf (decode s.fetchWord) s.advance := by
  rw [faultDue, if_neg hpc]
  cases decode s.fetchWord <;> rfl

/-- The next state of a step of a running core. -/
def stepOutcome (s : State) : State :=
  (faultDue s).elim (effect (decode s.fetchWord) s.advance) fun due => s.takeFault due.1 due.2

theorem stepOutcome_of_due {s : State} {due : FaultCause × Nat} (h : faultDue s = some due) :
    stepOutcome s = s.takeFault due.1 due.2 := by
  rw [stepOutcome, h, Option.elim_some]

theorem stepOutcome_of_none {s : State} (h : faultDue s = none) :
    stepOutcome s = effect (decode s.fetchWord) s.advance := by
  rw [stepOutcome, h, Option.elim_none]

/-- Inside memory a step ends as its instruction does: the fault undoes the advance. -/
theorem outcome_advance {s : State} (hpc : ¬ 0xFFE < s.pc.toNat) :
    outcome (decode s.fetchWord) s.advance = stepOutcome s := by
  rw [outcome, stepOutcome, faultDue_inside hpc, State.rewind_advance]

/-- A running core goes on, to `stepOutcome`; a fetched RET needs `sp` in the range of R26. -/
theorem step_eq_stepOutcome {s : State} (hrunning : s.fault = none)
    (hsp : ¬ 0xFFE < s.pc.toNat → decode s.fetchWord = .ret → s.sp.toNat ≤ 16) :
    step s = .next (stepOutcome s) := by
  by_cases hpc : 0xFFE < s.pc.toNat
  · rw [step_outside s hrunning hpc, stepOutcome_of_due (faultDue_outside hpc)]
  · rw [step_inside s hrunning hpc, exec_eq_outcome _ s.advance (hsp hpc), outcome_advance hpc]

/-- A next state of a running core is `stepOutcome`, whatever `sp` is. -/
theorem eq_stepOutcome_of_step {s t : State} (hrunning : s.fault = none) (h : step s = .next t) :
    t = stepOutcome s := by
  obtain ⟨hhalted, -⟩ | ⟨-, hpc, rfl⟩ | ⟨-, hpc, hexec⟩ := step_cases s t h
  · exact absurd hrunning hhalted
  · exact (stepOutcome_of_due (faultDue_outside hpc)).symm
  · exact (eq_outcome_of_exec hexec).trans (outcome_advance hpc)

/-- All that a running core can step to: the fault due, taken; or, with none due, the effect of the instruction
at `pc`. -/
theorem step_running_cases {s t : State} (hrunning : s.fault = none) (h : step s = .next t) :
    (∃ due : FaultCause × Nat, faultDue s = some due ∧ t = s.takeFault due.1 due.2) ∨
    (faultDue s = none ∧ t = effect (decode s.fetchWord) s.advance) := by
  rw [eq_stepOutcome_of_step hrunning h]
  cases hdue : faultDue s with
  | some due => exact .inl ⟨due, rfl, stepOutcome_of_due hdue⟩
  | none => exact .inr ⟨rfl, stepOutcome_of_none hdue⟩

/-- No instruction writes the latch but by a fault. -/
theorem effect_fault (i : Instr) (s : State) : (effect i s).fault = s.fault :=
  frameExcept_effect i s .fault (by cases i <;> simp [partsWritten])

theorem stepOutcome_fault {s : State} (hrunning : s.fault = none) :
    (stepOutcome s).fault = (faultDue s).map fun due => ⟨due.1, s.pc, due.2⟩ := by
  cases hdue : faultDue s with
  | some due => rw [stepOutcome_of_due hdue, State.takeFault_fault, Option.map_some]
  | none => rw [stepOutcome_of_none hdue, effect_fault, State.advance_fault, hrunning, Option.map_none]

/-! ## The obligations -/

/-- Settles O7: the fetch fault is latched on the state as it is, before any advance. -/
theorem fetchOutsideMemoryIsLatched : Obligations.FetchOutsideMemoryIsLatched :=
  fun s hrunning hpc => step_outside s hrunning hpc

/-- Settles O8: a latched fault is what `step` asks for first. -/
theorem haltedCoreDoesNotMove : Obligations.HaltedCoreDoesNotMove :=
  fun s _ hfault => step_halted s (by rw [hfault]; exact Option.some_ne_none _)

/-- Settles O9: only the fault due sets the latch, and taking it writes the latch alone. -/
theorem faultingStepChangesTheLatchAlone : Obligations.FaultingStepChangesTheLatchAlone := by
  intro s t f hrunning hstep hfault
  obtain ⟨due, -, rfl⟩ | ⟨-, rfl⟩ := step_running_cases hrunning hstep
  · obtain rfl : ⟨due.1, s.pc, due.2⟩ = f := Option.some.inj hfault
    exact ⟨rfl, rfl⟩
  · rw [effect_fault, State.advance_fault, hrunning] at hfault
    exact nomatch hfault

/-- Settles O10: a step of a running core goes on to `stepOutcome`, whose latch is the fault due. -/
theorem stepFaultsExactlyWhenDue : Obligations.StepFaultsExactlyWhenDue :=
  fun s hrunning hsp => ⟨stepOutcome s, step_eq_stepOutcome hrunning fun _ _ => hsp, stepOutcome_fault hrunning⟩

end Sys2Proof.Machine
end

section
/-! PROOF. Where an effect leaves `sp`, the stack, `pc` and memory. -/

namespace Sys2Proof.Machine

/-! ## The stack pointer -/

theorem push_sp_toNat {s : State} (hsp : s.sp.toNat < 16) (v : Word) :
    (s.push v).sp.toNat = s.sp.toNat + 1 := by
  rw [State.push_sp]
  bv_omega

theorem drop_sp_toNat {s : State} (hsp : s.sp ≠ 0) : s.drop.sp.toNat = s.sp.toNat - 1 := by
  rw [State.drop_sp]
  bv_omega

/-- Only CALL and RET write `sp`, and neither when it owes a fault. -/
theorem effect_sp_le (i : Instr) {s : State} (hsp : s.sp.toNat ≤ 16) (hnone : faultOf i s = none) :
    (effect i s).sp.toNat ≤ 16 := by
  by_cases hpart : StatePart.sp ∈ partsWritten i
  · cases i <;> simp [partsWritten] at hpart
    case call nnn =>
      have hfree : s.sp.toNat < 16 := by simpa [faultOf] using hnone
      rw [effect, State.jump_sp, push_sp_toNat hfree]
      exact hfree
    case ret =>
      have hheld : s.sp ≠ 0 := by simpa [faultOf] using hnone
      rw [effect, State.jump_sp, drop_sp_toNat hheld]
      omega
  · rw [frameExcept_effect i s .sp hpart]
    exact hsp

/-! ## What a skip and a pop leave in `pc` -/

theorem skipIf_pc_forall {P : Word → Prop} {s : State} (hnext : P s.pc) (hskip : P (s.pc + 2)) (c : Bool) :
    P (s.skipIf c).pc := by
  cases c
  · exact hnext
  · exact hskip

theorem stackAt_getD_forall {P : Word → Prop} {s : State} (hstack : ∀ k : Fin 16, P s.stack[k]) (hzero : P 0)
    (k : Nat) : P ((s.stackAt k).getD 0) := by
  by_cases hk : k < 16
  · rw [State.stackAt, Vector.getElem?_eq_getElem hk]
    exact hstack ⟨k, hk⟩
  · rw [State.stackAt, Vector.getElem?_eq_none (Nat.le_of_not_lt hk)]
    exact hzero

section
variable {P : Word → Prop} (i : Instr) {s : State} (hnext : P s.pc) (hstack : ∀ k : Fin 16, P s.stack[k])
include hnext hstack

/-! ## The return stack -/

/-- Only CALL writes the stack, and the entry it writes is `pc`. -/
theorem effect_stack_forall (k : Fin 16) : P (effect i s).stack[k] := by
  by_cases hpart : StatePart.stack ∈ partsWritten i
  · cases i <;> simp [partsWritten] at hpart
    case call nnn =>
      simp only [effect, State.jump_stack, State.push_stack, Fin.getElem_fin, Vector.getElem_setIfInBounds]
      split
      · exact hnext
      · exact hstack k
  · rw [frameExcept_effect i s .stack hpart]
    exact hstack k

/-! ## The program counter -/

/-- The words that an effect can leave in `pc`: the next instruction, the one after a skip, the instruction
itself, a return address (0 stands for none), and the targets of the jumps. -/
theorem effect_pc_forall (hskip : P (s.pc + 2)) (hback : P (s.pc - 2)) (hzero : P 0)
    (hjump : ∀ nnn : Addr12, i = .jp nnn ∨ i = .call nnn → P (addrOf nnn))
    (hoffset : ∀ nnn : Addr12, i = .jpV0 nnn → P (trunc16 (nnn.toNat + (s.reg 0).toNat))) :
    P (effect i s).pc := by
  by_cases hpart : StatePart.pc ∈ partsWritten i
  · cases i <;> simp [partsWritten] at hpart
    case ret => exact stackAt_getD_forall hstack hzero _
    case jp nnn => exact hjump nnn (.inl rfl)
    case call nnn => exact hjump nnn (.inr rfl)
    case jpV0 nnn => exact hoffset nnn rfl
    case seImm | sneImm | seReg | sneReg | skp | sknp => exact skipIf_pc_forall hnext hskip _
    case ldVxK x =>
      unfold effect
      cases s.leastKey
      · exact hback
      · exact hnext
  · rw [frameExcept_effect i s .pc hpart]
    exact hnext

end

/-! ## Memory -/

/-- Outside the two stores memory is not only read alike but kept as it is. -/
theorem effect_mem {i : Instr} (hpart : StatePart.mem ∉ partsWritten i) (s : State) :
    (effect i s).mem = s.mem := by
  cases i
  case ldB | ldMemVx => exact absurd List.mem_cons_self hpart
  case seImm | sneImm | seReg | sneReg | skp | sknp => exact s.skipIf_mem _
  case ldVxMem x => exact s.loadRegs_mem x
  case ldVxK => unfold effect; cases s.leastKey <;> rfl
  all_goals rfl

/-- The two stores write bytes, which keeps the canonical form. -/
theorem effect_mem_wf (i : Instr) {s : State} (hwf : Memory.wf s.mem = true) :
    Memory.wf (effect i s).mem = true := by
  by_cases hpart : StatePart.mem ∈ partsWritten i
  · cases i <;> simp [partsWritten] at hpart
    all_goals exact Memory.wf_writeBytes s.mem hwf _ _
  · rw [effect_mem hpart]
    exact hwf

end Sys2Proof.Machine
end

section
/-! PROOF. The invariant of every run: it holds at reset, and the step and every host operation keep it. -/

namespace Sys2Proof.Machine

/-! ## The step -/

/-- The fault due records what R242 says of the state. -/
theorem trueOf_of_faultDue {s : State} (hsp : s.sp.toNat ≤ 16) {due : FaultCause × Nat}
    (h : faultDue s = some due) : FaultRecord.TrueOf ⟨due.1, s.pc, due.2⟩ s := by
  refine ⟨rfl, ?_⟩
  by_cases hpc : 0xFFE < s.pc.toNat
  · obtain rfl := Option.some.inj ((faultDue_outside hpc).symm.trans h)
    exact ⟨hpc, rfl⟩
  · rw [faultDue_inside hpc] at h
    cases hi : decode s.fetchWord <;> simp only [hi, faultOf, Option.ite_none_right_eq_some, reduceCtorEq] at h
    case call =>
      obtain ⟨hfull, hdue⟩ := h
      have hsp16 : s.sp.toNat = 16 := Nat.le_antisymm hsp hfull
      obtain rfl := Option.some.inj hdue
      exact ⟨hsp16, hsp16⟩
    case ret =>
      obtain ⟨hempty, hdue⟩ := h
      obtain rfl := Option.some.inj hdue
      exact ⟨hempty, rfl⟩
    case skp x | sknp x =>
      obtain ⟨hkey, hdue⟩ := h
      obtain rfl := Option.some.inj hdue
      exact ⟨hkey, x, rfl⟩
    case ldB | ldMemVx | ldVxMem | drw =>
      obtain ⟨-, hdue⟩ := h
      obtain rfl := Option.some.inj hdue
      rfl

/-- Taking the fault due keeps the invariant: every bound is of a part that stays. -/
theorem inv_takeFault {s : State} (hs : s.Inv) {due : FaultCause × Nat} (hdue : faultDue s = some due) :
    (s.takeFault due.1 due.2).Inv where
  sp_le := hs.sp_le
  pc_le := hs.pc_le
  stack_le := hs.stack_le
  mem_wf := hs.mem_wf
  latch_true := by
    intro f hf
    obtain rfl := Option.some.inj hf
    exact trueOf_of_faultDue hs.sp_le hdue

/-- A word that is fetched lies in memory, so the advance leaves `pc` from 2 to 0x1000. -/
theorem advance_pc_toNat {s : State} (hpc : ¬ 0xFFE < s.pc.toNat) :
    s.advance.pc.toNat = s.pc.toNat + 2 := by
  rw [State.advance_pc]
  bv_omega

theorem addrOf_le (nnn : Addr12) : (addrOf nnn).toNat ≤ 0x10FE := by
  have := nnn.isLt
  rw [addrOf_toNat]
  omega

@[simp] theorem trunc16_toNat (v : Nat) : (trunc16 v).toNat = v % 65536 := BitVec.toNat_ofNat v 16

/-- The greatest sum, 0xFFF + 0xFF, is a word. -/
theorem offsetTarget_toNat (nnn : Addr12) (v : Byte) :
    (trunc16 (nnn.toNat + v.toNat)).toNat = nnn.toNat + v.toNat := by
  have := nnn.isLt
  have := v.isLt
  rw [trunc16_toNat]
  omega

theorem offsetTarget_le (nnn : Addr12) (v : Byte) : (trunc16 (nnn.toNat + v.toNat)).toNat ≤ 0x10FE := by
  have := nnn.isLt
  have := v.isLt
  rw [offsetTarget_toNat]
  omega

/-- The effect of an instruction fetched from memory keeps the invariant. -/
theorem inv_effect {s : State} (hs : s.Inv) (hrunning : s.fault = none) (hpc : ¬ 0xFFE < s.pc.toNat)
    {i : Instr} (hnone : faultOf i s.advance = none) : (effect i s.advance).Inv where
  sp_le := effect_sp_le i hs.sp_le hnone
  pc_le := by
    have hadvance := advance_pc_toNat hpc
    refine effect_pc_forall (P := fun w => w.toNat ≤ 0x10FE) i ?next ?stack ?skip ?back (by decide)
      (fun nnn _ => addrOf_le nnn) fun nnn _ => offsetTarget_le nnn _
    case stack => exact fun k => (hs.stack_le k).trans (by decide)
    all_goals bv_omega
  stack_le := by
    have hnext : s.advance.pc.toNat ≤ 0x1000 := by
      rw [advance_pc_toNat hpc]
      omega
    exact effect_stack_forall (P := fun w => w.toNat ≤ 0x1000) i hnext hs.stack_le
  mem_wf := effect_mem_wf i hs.mem_wf
  latch_true := by
    intro f hf
    rw [effect_fault, State.advance_fault, hrunning] at hf
    exact nomatch hf

theorem inv_step {s t : State} (hs : s.Inv) (h : step s = .next t) : t.Inv := by
  by_cases hrunning : s.fault = none
  · obtain ⟨due, hdue, rfl⟩ | ⟨hnone, rfl⟩ := step_running_cases hrunning h
    · exact inv_takeFault hs hdue
    · have hpc : ¬ 0xFFE < s.pc.toNat := fun hout => by
        rw [faultDue_outside hout] at hnone
        exact nomatch hnone
      exact inv_effect hs hrunning hpc ((faultDue_inside hpc).symm.trans hnone)
  · rw [step_halted s hrunning] at h
    exact Host.Outcome.next.inj h ▸ hs

/-- With the invariant, a step always goes on: only RET above 16 stops. -/
theorem step_progress {s : State} (hs : s.Inv) : ∃ t : State, step s = .next t := by
  by_cases hrunning : s.fault = none
  · exact ⟨_, step_eq_stepOutcome hrunning fun _ _ => hs.sp_le⟩
  · exact ⟨s, step_halted s hrunning⟩

/-! ## Reset and the host operations -/

theorem inv_State_reset : State.reset.Inv :=
  ⟨by decide, by decide, by decide, rfl, fun _ h => nomatch h⟩

/-- A load leaves the state of reset with bytes written. -/
theorem inv_loaded (bytes : List Byte) (s : State) : (loaded bytes s).Inv where
  sp_le := inv_State_reset.sp_le
  pc_le := inv_State_reset.pc_le
  stack_le := inv_State_reset.stack_le
  mem_wf := Memory.wf_writeBytes _ inv_State_reset.mem_wf _ _
  latch_true := fun _ h => nomatch h

/-! A tick, a key write and a consumed frame write no part that the invariant speaks of. -/

theorem inv_tick {s : State} (hs : s.Inv) : (tick s).Inv :=
  ⟨hs.sp_le, hs.pc_le, hs.stack_le, hs.mem_wf, hs.latch_true⟩

theorem inv_writeKey {s : State} (hs : s.Inv) (k : RegIdx) (pressed : Bool) : (writeKey k pressed s).Inv :=
  ⟨hs.sp_le, hs.pc_le, hs.stack_le, hs.mem_wf, hs.latch_true⟩

theorem inv_consumeFrame {s : State} (hs : s.Inv) : (consumeFrame s).Inv :=
  ⟨hs.sp_le, hs.pc_le, hs.stack_le, hs.mem_wf, hs.latch_true⟩

/-- Every operation of R259 goes on and keeps the invariant. -/
theorem hostEvent_inv (e : HostEvent) {s : State} (hs : s.Inv) :
    ∃ t : State, hostEvent e s = .next t ∧ t.Inv := by
  cases e with
  | step =>
    obtain ⟨t, ht⟩ := step_progress hs
    exact ⟨t, ht, inv_step hs ht⟩
  | tick => exact ⟨tick s, rfl, inv_tick hs⟩
  | keyWrite k pressed => exact ⟨writeKey k pressed s, rfl, inv_writeKey hs k pressed⟩
  | frameConsume => exact ⟨consumeFrame s, rfl, inv_consumeFrame hs⟩
  | toneRead | inspect => exact ⟨s, rfl, hs⟩
  | load bytes =>
    by_cases hfits : bytes.length ≤ 3584
    · exact ⟨loaded bytes s, hostEvent_load_of_le hfits s, inv_loaded bytes s⟩
    · exact ⟨s, hostEvent_load_of_gt (Nat.lt_of_not_le hfits) s, hs⟩

theorem runEvents_cons {e : HostEvent} {s t : State} (h : hostEvent e s = .next t) (es : List HostEvent) :
    runEvents (e :: es) s = runEvents es t := by
  rw [runEvents, h]

/-! ## The obligations -/

/-- Settles O11: the bounds of `State.Inv` at the reset values. -/
theorem resetMeetsTheInvariant : Obligations.ResetMeetsTheInvariant := inv_State_reset

/-- Settles O12: a halted core stays, a fault due is a true one, and an effect keeps each bound. -/
theorem stepKeepsTheInvariant : Obligations.StepKeepsTheInvariant := fun _ _ hs h => inv_step hs h

/-- Settles O13, by induction on the operations: each goes on and keeps the invariant. -/
theorem everyInterleavingKeepsTheInvariant : Obligations.EveryInterleavingKeepsTheInvariant := by
  intro es
  induction es with
  | nil => exact fun s hs => ⟨s, rfl, hs⟩
  | cons e es ih =>
    intro s hs
    obtain ⟨t, ht, hinv⟩ := hostEvent_inv e hs
    obtain ⟨u, hu, hfinal⟩ := ih t hinv
    exact ⟨u, (runEvents_cons ht es).trans hu, hfinal⟩

end Sys2Proof.Machine
end

section
/-! PROOF. The statements of 30_encoding.md on words: decoding and encoding, the ignored bits, and the opcode
table. -/

namespace Sys2Proof

/-! ## Decoding families 2, 8 and B to F, R83 to R87 -/

theorem decode_wordNNN_2 (nnn : Addr12) : decode (wordNNN 0x2 nnn) = .call nnn := by
  simp [decode]

theorem decode_wordNNN_B (nnn : Addr12) : decode (wordNNN 0xB nnn) = .jpV0 nnn := by
  simp [decode]

theorem decode_wordXKK_C (x : RegIdx) (kk : Byte) : decode (wordXKK 0xC x kk) = .rnd x kk := by
  simp [decode]

theorem decode_wordXYN_D (x y : RegIdx) (n : Fin 16) : decode (wordXYN 0xD x y n) = .drw x y n := by
  simp [decode]

theorem decode_wordXYN_8_0 (x y : RegIdx) : decode (wordXYN 0x8 x y 0x0) = .ldReg x y :=
  (decode_wordXYN_8 x y 0x0).trans (by simp [decodeFamily8])

theorem decode_wordXYN_8_1 (x y : RegIdx) : decode (wordXYN 0x8 x y 0x1) = .or x y :=
  (decode_wordXYN_8 x y 0x1).trans (by simp [decodeFamily8])

theorem decode_wordXYN_8_2 (x y : RegIdx) : decode (wordXYN 0x8 x y 0x2) = .and x y :=
  (decode_wordXYN_8 x y 0x2).trans (by simp [decodeFamily8])

theorem decode_wordXYN_8_3 (x y : RegIdx) : decode (wordXYN 0x8 x y 0x3) = .xor x y :=
  (decode_wordXYN_8 x y 0x3).trans (by simp [decodeFamily8])

theorem nibble_toNat (x : Fin 16) : (nibble x).toNat = x.val := rfl

/-- A word of format `XKK` is one of format `XYN`, its byte cut into nibbles. -/
theorem wordXKK_eq_wordXYN (op : BitVec 4) (x h n : Fin 16) :
    wordXKK op x (nibble h ++ nibble n) = wordXYN op x h n := by
  refine BitVec.eq_of_toNat_eq ?_
  rw [wordXKK_toNat, wordXYN_toNat, append_toNat, nibble_toNat, nibble_toNat]
  omega

/-- Family E reads the register and the last nibble, and not the nibble `h` between (R86). -/
theorem decode_wordXYN_E (x h n : Fin 16) :
    decode (wordXYN 0xE x h n) = decodeFamilyE (wordXYN 0xE x h n) :=
  decode_eq_decodeFamilyE _ (by simp)

theorem decode_wordXYN_E_E (x h : Fin 16) : decode (wordXYN 0xE x h 0xE) = .skp x :=
  (decode_wordXYN_E x h 0xE).trans (by simp [decodeFamilyE])

theorem decode_wordXYN_E_1 (x h : Fin 16) : decode (wordXYN 0xE x h 0x1) = .sknp x :=
  (decode_wordXYN_E x h 0x1).trans (by simp [decodeFamilyE])

theorem decode_wordXKK_E_9E (x : RegIdx) : decode (wordXKK 0xE x 0x9E) = .skp x :=
  (congrArg decode (wordXKK_eq_wordXYN 0xE x 0x9 0xE)).trans (decode_wordXYN_E_E x 0x9)

theorem decode_wordXKK_E_A1 (x : RegIdx) : decode (wordXKK 0xE x 0xA1) = .sknp x :=
  (congrArg decode (wordXKK_eq_wordXYN 0xE x 0xA 0x1)).trans (decode_wordXYN_E_1 x 0xA)

theorem decode_wordXKK_F_0A (x : RegIdx) : decode (wordXKK 0xF x 0x0A) = .ldVxK x :=
  (decode_wordXKK_F x 0x0A).trans (by simp [decodeFamilyF])

theorem decode_wordXKK_F_1E (x : RegIdx) : decode (wordXKK 0xF x 0x1E) = .addI x :=
  (decode_wordXKK_F x 0x1E).trans (by simp [decodeFamilyF])

theorem decode_wordXKK_F_29 (x : RegIdx) : decode (wordXKK 0xF x 0x29) = .ldF x :=
  (decode_wordXKK_F x 0x29).trans (by simp [decodeFamilyF])

theorem decode_wordXKK_F_33 (x : RegIdx) : decode (wordXKK 0xF x 0x33) = .ldB x :=
  (decode_wordXKK_F x 0x33).trans (by simp [decodeFamilyF])

theorem decode_wordXKK_F_55 (x : RegIdx) : decode (wordXKK 0xF x 0x55) = .ldMemVx x :=
  (decode_wordXKK_F x 0x55).trans (by simp [decodeFamilyF])

theorem decode_wordXKK_F_65 (x : RegIdx) : decode (wordXKK 0xF x 0x65) = .ldVxMem x :=
  (decode_wordXKK_F x 0x65).trans (by simp [decodeFamilyF])

/-- The mask 0xF00F keeps the two fields that family 0 is keyed on (R84). -/
theorem decode_eq_ret_of_mask (w : Word) (h : w &&& 0xF00F = 0x000E) : decode w = .ret := by
  have hop : (opField w).toNat = 0x0 := by rw [← opField_mask, h]; decide
  have hn : (nField w).val = 0xE := by rw [← nField_mask, h]; decide
  rw [decode_eq_decodeFamily0 w hop]
  simp only [decodeFamily0, hn]

/-! ## The canonical words -/

/-- The canonical word of each instruction is of its format, and the decoder reads the format back. -/
theorem decode_encode (i : Instr) (hwf : i.WellFormed = true) : decode (encode i) = i := by
  cases i
  case cls => exact decode_eq_cls_of_mask 0x00E0 rfl
  case ret => exact decode_eq_ret_of_mask 0x00EE rfl
  case jp nnn => exact decode_wordNNN_1 nnn
  case call nnn => exact decode_wordNNN_2 nnn
  case seImm x kk => exact decode_wordXKK_3 x kk
  case sneImm x kk => exact decode_wordXKK_4 x kk
  case seReg x y => exact decode_wordXYN_5 x y 0x0
  case ldImm x kk => exact decode_wordXKK_6 x kk
  case addImm x kk => exact decode_wordXKK_7 x kk
  case ldReg x y => exact decode_wordXYN_8_0 x y
  case or x y => exact decode_wordXYN_8_1 x y
  case and x y => exact decode_wordXYN_8_2 x y
  case xor x y => exact decode_wordXYN_8_3 x y
  case addReg x y => exact decode_wordXYN_8_4 x y
  case sub x y => exact decode_wordXYN_8_5 x y
  case shr x y => exact decode_wordXYN_8_6 x y
  case subn x y => exact decode_wordXYN_8_7 x y
  case shl x y => exact decode_wordXYN_8_E x y
  case sneReg x y => exact decode_wordXYN_9 x y 0x0
  case ldI nnn => exact decode_wordNNN_A nnn
  case jpV0 nnn => exact decode_wordNNN_B nnn
  case rnd x kk => exact decode_wordXKK_C x kk
  case drw x y n => exact decode_wordXYN_D x y n
  case skp x => exact decode_wordXKK_E_9E x
  case sknp x => exact decode_wordXKK_E_A1 x
  case ldVxDt x => exact decode_wordXKK_F_07 x
  case ldVxK x => exact decode_wordXKK_F_0A x
  case ldDtVx x => exact decode_wordXKK_F_15 x
  case ldStVx x => exact decode_wordXKK_F_18 x
  case addI x => exact decode_wordXKK_F_1E x
  case ldF x => exact decode_wordXKK_F_29 x
  case ldB x => exact decode_wordXKK_F_33 x
  case ldMemVx x => exact decode_wordXKK_F_55 x
  case ldVxMem x => exact decode_wordXKK_F_65 x
  case nop w => exact decode_of_unmapped w hwf

/-! ## What the decoder makes is well-formed -/

/-! A sub-table answers `nop` on the sub-keys it leaves out, which are the unmapped ones, and else an instruction
that is well-formed whatever its operands are. -/

theorem decodeFamily0_wellFormed (w : Word) (hop : (opField w).toNat = 0x0) :
    (decodeFamily0 w).WellFormed = true := by
  by_cases hn : (nField w).val ∈ [0x0, 0xE]
  · simp only [List.mem_cons, List.not_mem_nil, or_false] at hn
    rcases hn with hn | hn <;> simp only [decodeFamily0, hn, Instr.WellFormed]
  · rw [decodeFamily0_eq_nop w hn]
    exact (unmapped_iff w).mpr (.inl ⟨hop, hn⟩)

theorem decodeFamily8_wellFormed (w : Word) (hop : (opField w).toNat = 0x8) :
    (decodeFamily8 w).WellFormed = true := by
  by_cases hn : (nField w).val ∈ [0x0, 0x1, 0x2, 0x3, 0x4, 0x5, 0x6, 0x7, 0xE]
  · simp only [List.mem_cons, List.not_mem_nil, or_false] at hn
    rcases hn with hn | hn | hn | hn | hn | hn | hn | hn | hn <;>
      simp only [decodeFamily8, hn, Instr.WellFormed]
  · rw [decodeFamily8_eq_nop w hn]
    exact (unmapped_iff w).mpr (.inr (.inl ⟨hop, hn⟩))

theorem decodeFamilyE_wellFormed (w : Word) (hop : (opField w).toNat = 0xE) :
    (decodeFamilyE w).WellFormed = true := by
  by_cases hn : (nField w).val ∈ [0x1, 0xE]
  · simp only [List.mem_cons, List.not_mem_nil, or_false] at hn
    rcases hn with hn | hn <;> simp only [decodeFamilyE, hn, Instr.WellFormed]
  · rw [decodeFamilyE_eq_nop w hn]
    exact (unmapped_iff w).mpr (.inr (.inr (.inl ⟨hop, hn⟩)))

theorem decodeFamilyF_wellFormed (w : Word) (hop : (opField w).toNat = 0xF) :
    (decodeFamilyF w).WellFormed = true := by
  by_cases hkk : (kkField w).toNat ∈ mappedLastBytes
  · simp only [mappedLastBytes, List.mem_cons, List.not_mem_nil, or_false] at hkk
    rcases hkk with hkk | hkk | hkk | hkk | hkk | hkk | hkk | hkk | hkk <;>
      simp only [decodeFamilyF, hkk, Instr.WellFormed]
  · rw [decodeFamilyF_eq_nop w hkk]
    exact (unmapped_iff w).mpr (.inr (.inr (.inr ⟨hop, hkk⟩)))

theorem decode_wellFormed (w : Word) : (decode w).WellFormed = true := by
  have hlt : (opField w).toNat < 16 := (opField w).isLt
  unfold decode
  split
  case h_1 hop => exact decodeFamily0_wellFormed w hop
  case h_9 hop => exact decodeFamily8_wellFormed w hop
  case h_15 hop => exact decodeFamilyE_wellFormed w hop
  case h_16 => exact decodeFamilyF_wellFormed w (by simp only [imp_false] at *; omega)
  all_goals rfl

end Sys2Proof
end

section
/-! PROOF. The opcode table against the decoder (30_encoding.md R92): a word is reduced to the fields that the rows
and the decoder read, and the few words left are evaluated. -/

namespace Sys2Proof

/-! ## A word is its four fields -/

theorem word_ext {w v : Word} (hop : opField w = opField v) (hx : xField w = xField v)
    (hy : yField w = yField v) (hn : nField w = nField v) : w = v := by
  have hop : w.toNat / 4096 = v.toNat / 4096 := by rw [← opField_toNat, hop, opField_toNat]
  have hx : w.toNat / 256 % 16 = v.toNat / 256 % 16 := by rw [← xField_val, hx, xField_val]
  have hy : w.toNat / 16 % 16 = v.toNat / 16 % 16 := by rw [← yField_val, hy, yField_val]
  have hn : w.toNat % 16 = v.toNat % 16 := by rw [← nField_val, hn, nField_val]
  exact BitVec.eq_of_toNat_eq (by omega)

theorem opField_and (w m : Word) : opField (w &&& m) = opField w &&& opField m := BitVec.extractLsb'_and

/-- A mask that leaves `x` out makes it 0. -/
theorem xField_and_eq_zero {m : Word} (hm : xField m = 0) (w : Word) : xField (w &&& m) = 0 := by
  have hbits : m.extractLsb' 8 4 = 0#4 := congrArg BitVec.ofFin hm
  rw [xField, BitVec.extractLsb'_and, hbits, BitVec.and_zero]
  rfl

theorem yField_and_eq_zero {m : Word} (hm : yField m = 0) (w : Word) : yField (w &&& m) = 0 := by
  have hbits : m.extractLsb' 4 4 = 0#4 := congrArg BitVec.ofFin hm
  rw [yField, BitVec.extractLsb'_and, hbits, BitVec.and_zero]
  rfl

/-- A mask that has all of `y` keeps it. -/
theorem yField_and_eq_self {m : Word} (hm : yField m = 0xF) (w : Word) : yField (w &&& m) = yField w := by
  have hbits : m.extractLsb' 4 4 = BitVec.allOnes 4 := congrArg BitVec.ofFin hm
  rw [yField, BitVec.extractLsb'_and, hbits, BitVec.and_allOnes]
  rfl

theorem nField_and_eq_self {m : Word} (hm : nField m = 0xF) (w : Word) : nField (w &&& m) = nField w := by
  have hbits : m.extractLsb' 0 4 = BitVec.allOnes 4 := congrArg BitVec.ofFin hm
  rw [nField, BitVec.extractLsb'_and, hbits, BitVec.and_allOnes]
  rfl

theorem opField_and_eq_self {m : Word} (hm : opField m = BitVec.allOnes 4) (w : Word) :
    opField (w &&& m) = opField w := by
  rw [opField_and, hm, BitVec.and_allOnes]

/-- The word with the family, and the last nibble, of `w`. -/
theorem and_F00F_eq (w : Word) : w &&& 0xF00F = wordXYN (opField w) 0 0 (nField w) :=
  word_ext (by rw [opField_and_eq_self (by decide), opField_wordXYN])
    (by rw [xField_and_eq_zero (by decide), xField_wordXYN])
    (by rw [yField_and_eq_zero (by decide), yField_wordXYN])
    (by rw [nField_and_eq_self (by decide), nField_wordXYN])

/-- The word with the family, and the last byte, of `w`. -/
theorem and_F0FF_eq (w : Word) : w &&& 0xF0FF = wordXYN (opField w) 0 (yField w) (nField w) :=
  word_ext (by rw [opField_and_eq_self (by decide), opField_wordXYN])
    (by rw [xField_and_eq_zero (by decide), xField_wordXYN])
    (by rw [yField_and_eq_self (by decide), yField_wordXYN])
    (by rw [nField_and_eq_self (by decide), nField_wordXYN])

/-! ## The rows of a word -/

/-- The rows of families 0 to E, whose masks lie in 0xF00F. -/
def nibbleRows : List OpcodeRow := rowsFlow ++ rowsAlu ++ rowsUpper ++ rowsNopNibble

/-- The rows of family F, whose masks lie in 0xF0FF. -/
def byteRows : List OpcodeRow := rowsF ++ rowsNopByteLow ++ rowsNopByteHigh

/-- The rows of a list that claim a word. -/
def claimants (rows : List OpcodeRow) (w : Word) : List OpcodeRow := rows.filter fun r => r.claims w

/-- A row claims words of its own family only. -/
theorem claimants_eq_nil {rows : List OpcodeRow} {w : Word}
    (hrows : ∀ r ∈ rows, opField r.mask = BitVec.allOnes 4 ∧ opField r.bits ≠ opField w) :
    claimants rows w = [] := by
  refine List.filter_eq_nil_iff.mpr fun r hr hclaims => ?_
  obtain ⟨hmask, hother⟩ := hrows r hr
  have hbits : w &&& r.mask = r.bits := by simpa [OpcodeRow.claims] using hclaims
  exact hother (by rw [← hbits, opField_and_eq_self hmask])

/-- Rows whose masks lie in `m` read a word through `m`. -/
theorem claimants_mask {rows : List OpcodeRow} {m : Word} (hrows : ∀ r ∈ rows, m &&& r.mask = r.mask)
    (w : Word) : claimants rows w = claimants rows (w &&& m) := by
  refine List.filter_congr fun r hr => ?_
  rw [OpcodeRow.claims, OpcodeRow.claims, BitVec.and_assoc, hrows r hr]

theorem claimants_append (rows rows' : List OpcodeRow) (w : Word) :
    claimants (rows ++ rows') w = claimants rows w ++ claimants rows' w := List.filter_append ..

/-- In family F the claimants are those among the rows of family F. -/
theorem claimants_opcodeTable_F {w : Word} (hop : opField w = 0xF) :
    claimants opcodeTable w = claimants byteRows w := by
  have hflow : claimants rowsFlow w = [] := claimants_eq_nil (by rw [hop]; decide)
  have halu : claimants rowsAlu w = [] := claimants_eq_nil (by rw [hop]; decide)
  have hupper : claimants rowsUpper w = [] := claimants_eq_nil (by rw [hop]; decide)
  have hnop : claimants rowsNopNibble w = [] := claimants_eq_nil (by rw [hop]; decide)
  simp only [opcodeTable, byteRows, claimants_append, hflow, halu, hupper, hnop, List.nil_append,
    List.append_nil]

/-- In every other family they are those among the rows of these families. -/
theorem claimants_opcodeTable_not_F {w : Word} (hop : opField w ≠ 0xF) :
    claimants opcodeTable w = claimants nibbleRows w := by
  have hF : ∀ rows : List OpcodeRow,
      (∀ r ∈ rows, opField r.mask = BitVec.allOnes 4 ∧ opField r.bits = 0xF) → claimants rows w = [] :=
    fun rows hrows => claimants_eq_nil fun r hr => ⟨(hrows r hr).1, (hrows r hr).2.trans_ne hop.symm⟩
  simp only [opcodeTable, nibbleRows, claimants_append, hF rowsF (by decide), hF rowsNopByteLow (by decide),
    hF rowsNopByteHigh (by decide), List.append_nil]

/-! ## What the mnemonic of a decoded word depends on -/

theorem kkField_congr {w v : Word} (hy : yField w = yField v) (hn : nField w = nField v) :
    kkField w = kkField v := by
  have hy : w.toNat / 16 % 16 = v.toNat / 16 % 16 := by rw [← yField_val, hy, yField_val]
  have hn : w.toNat % 16 = v.toNat % 16 := by rw [← nField_val, hn, nField_val]
  refine BitVec.eq_of_toNat_eq ?_
  rw [kkField_toNat, kkField_toNat]
  omega

theorem decodeFamily0_mnemonic_congr {w v : Word} (hn : nField w = nField v) :
    (decodeFamily0 w).mnemonic = (decodeFamily0 v).mnemonic := by
  unfold decodeFamily0
  rw [hn]
  split <;> rfl

theorem decodeFamily8_mnemonic_congr {w v : Word} (hn : nField w = nField v) :
    (decodeFamily8 w).mnemonic = (decodeFamily8 v).mnemonic := by
  unfold decodeFamily8
  rw [hn]
  split <;> rfl

theorem decodeFamilyE_mnemonic_congr {w v : Word} (hn : nField w = nField v) :
    (decodeFamilyE w).mnemonic = (decodeFamilyE v).mnemonic := by
  unfold decodeFamilyE
  rw [hn]
  split <;> rfl

theorem decodeFamilyF_mnemonic_congr {w v : Word} (hkk : kkField w = kkField v) :
    (decodeFamilyF w).mnemonic = (decodeFamilyF v).mnemonic := by
  unfold decodeFamilyF
  rw [hkk]
  split <;> rfl

/-- The mnemonic depends on the family, on the last nibble, and in family F on the last byte. -/
theorem decode_mnemonic_congr {w v : Word} (hop : opField w = opField v) (hn : nField w = nField v)
    (hkk : opField v = 0xF → kkField w = kkField v) : (decode w).mnemonic = (decode v).mnemonic := by
  have hlt : (opField v).toNat < 16 := (opField v).isLt
  unfold decode
  rw [hop]
  split
  case h_1 => exact decodeFamily0_mnemonic_congr hn
  case h_9 => exact decodeFamily8_mnemonic_congr hn
  case h_15 => exact decodeFamilyE_mnemonic_congr hn
  case h_16 =>
    refine decodeFamilyF_mnemonic_congr (hkk (BitVec.eq_of_toNat_eq ?_))
    simp only [imp_false] at *
    exact (show (opField v).toNat = 15 by omega)
  all_goals rfl

/-! ## The words left, evaluated -/

/-- Whether exactly one row claims the word, and it has the mnemonic of the decoded word. -/
def hasItsRow (rows : List OpcodeRow) (w : Word) : Bool :=
  match claimants rows w with
  | [r] => r.mnemonic == (decode w).mnemonic
  | _ => false

theorem exists_row_of_hasItsRow {rows : List OpcodeRow} {w : Word} (h : hasItsRow rows w = true) :
    ∃ r : OpcodeRow, claimants rows w = [r] ∧ r.mnemonic = (decode w).mnemonic := by
  unfold hasItsRow at h
  split at h
  case h_1 r hr => exact ⟨r, hr, by simpa using h⟩
  case h_2 => exact nomatch h

/-- The 256 last bytes of family F. -/
theorem hasItsRow_byteRows : ∀ y n : Fin 16, hasItsRow byteRows (wordXYN 0xF 0 y n) = true := by decide

/-- The 16 last nibbles of the other 15 families. -/
theorem hasItsRow_nibbleRows :
    ∀ op n : Fin 16, op ≠ 0xF → hasItsRow nibbleRows (wordXYN (nibble op) 0 0 n) = true := by decide

theorem exists_row_F {w : Word} (hop : opField w = 0xF) :
    ∃ r : OpcodeRow, claimants opcodeTable w = [r] ∧ r.mnemonic = (decode w).mnemonic := by
  have hkey : w &&& 0xF0FF = wordXYN 0xF 0 (yField w) (nField w) := hop ▸ and_F0FF_eq w
  have hmnemonic : (decode (w &&& 0xF0FF)).mnemonic = (decode w).mnemonic :=
    decode_mnemonic_congr (opField_and_eq_self (by decide) w) (nField_and_eq_self (by decide) w) fun _ =>
      kkField_congr (yField_and_eq_self (by decide) w) (nField_and_eq_self (by decide) w)
  rw [claimants_opcodeTable_F hop, claimants_mask (rows := byteRows) (m := 0xF0FF) (by decide), ← hmnemonic, hkey]
  exact exists_row_of_hasItsRow (hasItsRow_byteRows _ _)

theorem exists_row_not_F {w : Word} (hop : opField w ≠ 0xF) :
    ∃ r : OpcodeRow, claimants opcodeTable w = [r] ∧ r.mnemonic = (decode w).mnemonic := by
  have hmnemonic : (decode (w &&& 0xF00F)).mnemonic = (decode w).mnemonic :=
    decode_mnemonic_congr (opField_mask w) (nField_mask w) fun h => absurd h hop
  rw [claimants_opcodeTable_not_F hop, claimants_mask (rows := nibbleRows) (m := 0xF00F) (by decide), ← hmnemonic,
    and_F00F_eq]
  exact exists_row_of_hasItsRow
    (hasItsRow_nibbleRows (opField w).toFin _ fun h => hop (congrArg BitVec.ofFin h))

end Sys2Proof

namespace Sys2Proof.Machine

/-! ## The obligations -/

/-- Settles O1: each format is read back field by field, and a `nop` by its unmapped word. -/
theorem decodeOfEncodeIsTheInstruction : Obligations.DecodeOfEncodeIsTheInstruction := decode_encode

/-- Settles O2: the decoder answers well-formed instructions, on which `decode_encode` holds. -/
theorem everyWordDecodesToAWellFormedInstruction : Obligations.EveryWordDecodesToAWellFormedInstruction :=
  fun w => ⟨decode_wellFormed w, decode_encode _ (decode_wellFormed w)⟩

/-- Settles O3: family by family, through the part of the word that its rows read. -/
theorem everyWordMatchesExactlyOneTableRow : Obligations.EveryWordMatchesExactlyOneTableRow := by
  refine ⟨rfl, fun w => ?_⟩
  by_cases hop : opField w = 0xF
  · exact exists_row_F hop
  · exact exists_row_not_F hop

/-- Settles O4: each decoder reads its keys and operands alone, and no shift reads `y`. -/
theorem ignoredBitsDoNotMatter : Obligations.IgnoredBitsDoNotMatter :=
  ⟨decode_eq_cls_of_mask, decode_eq_ret_of_mask, decode_wordXYN_5, decode_wordXYN_9, decode_wordXYN_E_E,
    decode_wordXYN_E_1, fun x y z s => (exec_shr x y s).trans (exec_shr x z s).symm,
    fun x y z s => (exec_shl x y s).trans (exec_shl x z s).symm⟩

/-- Settles O5: fourteen words, decoded. -/
theorem wordsDecodeAsTheSpecWritesThem : Obligations.WordsDecodeAsTheSpecWritesThem := by
  unfold Obligations.WordsDecodeAsTheSpecWritesThem
  decide

end Sys2Proof.Machine
end

section
/-! PROOF. What no step reads (10_state.md R29, R30, R32): the sound timer, `redraw`, and, but for the three key
instructions, the input latches. -/

namespace Sys2Proof.Machine

/-! ## Two steps from states that differ in outputs and latches -/

section
variable {s s' : State} (hframe : FrameExcept [.ST, .redraw, .key] s s')
include hframe

theorem fetchWord_congr : s'.fetchWord = s.fetchWord := by
  have hpc : s'.pc = s.pc := hframe .pc (by decide)
  have hmem : ∀ a, Memory.read s'.mem a = Memory.read s.mem a := hframe .mem (by decide)
  rw [State.fetchWord, hpc, hmem, hmem, State.fetchWord]

/-- The conditions of R242 are on `pc`, `sp`, `I`, the registers and the fetched word. -/
theorem faultDue_congr : faultDue s' = faultDue s := by
  have hpc : s'.pc = s.pc := hframe .pc (by decide)
  have hsp : s'.sp = s.sp := hframe .sp (by decide)
  have hI : s'.I = s.I := hframe .I (by decide)
  have hreg : ∀ r, s'.reg r = s.reg r := hframe .V (by decide)
  rw [faultDue, faultDue, fetchWord_congr hframe]
  simp only [hpc, hsp, hI, hreg]

end

theorem frameExcept_takeFault {ps : List StatePart} {s s' : State} (hframe : FrameExcept ps s s')
    (hpc : StatePart.pc ∉ ps) (c : FaultCause) (n : Nat) :
    FrameExcept ps (s.takeFault c n) (s'.takeFault c n) := by
  intro p hp
  cases p
  case fault =>
    have hsame : s'.pc = s.pc := hframe .pc hpc
    simp only [SamePart, State.takeFault_fault, hsame]
  all_goals exact hframe _ hp

/-- When the effect of the fetched instruction keeps the difference within `ps`, so does the step: the fetch and the
fault due are the same. -/
theorem step_frameExcept {ps : List StatePart} {s s' t : State} (hps : ps ⊆ [.ST, .redraw, .key])
    (hframe : FrameExcept ps s s')
    (heffect : FrameExcept ps (effect (decode s.fetchWord) s.advance) (effect (decode s.fetchWord) s'.advance))
    (h : step s = .next t) : ∃ u : State, step s' = .next u ∧ FrameExcept ps t u := by
  have hwide := hframe.mono hps
  have hfault : s'.fault = s.fault := hwide .fault (by decide)
  have hpc : s'.pc = s.pc := hwide .pc (by decide)
  have hsp : s'.sp = s.sp := hwide .sp (by decide)
  by_cases hrunning : s.fault = none
  · have hret : ¬ 0xFFE < s'.pc.toNat → decode s'.fetchWord = .ret → s'.sp.toNat ≤ 16 := by
      rw [hpc, hsp, fetchWord_congr hwide]
      intro hinside hret
      rw [step_inside s hrunning hinside] at h
      exact (sp_le_of_exec h hret : s.advance.sp.toNat ≤ 16)
    refine ⟨stepOutcome s', step_eq_stepOutcome (hfault.trans hrunning) hret, ?_⟩
    rw [eq_stepOutcome_of_step hrunning h]
    have hdue' := faultDue_congr hwide
    cases hdue : faultDue s with
    | some due =>
      rw [stepOutcome_of_due hdue, stepOutcome_of_due (hdue'.trans hdue)]
      exact frameExcept_takeFault hframe (fun hmem => absurd (hps hmem) (by decide)) _ _
    | none =>
      rw [stepOutcome_of_none hdue, stepOutcome_of_none (hdue'.trans hdue), fetchWord_congr hwide]
      exact heffect
  · rw [step_halted s hrunning] at h
    obtain rfl := Host.Outcome.next.inj h
    exact ⟨s', step_halted s' (hfault ▸ hrunning), hframe⟩

/-! ## The sound timer and `redraw` -/

/-- The state with other outputs. -/
def withOutputs (sound : Byte) (signal : Bool) (s : State) : State := { s with ST := sound, redraw := signal }

theorem frameExcept_withOutputs (sound : Byte) (signal : Bool) (s : State) :
    FrameExcept [.ST, .redraw] s (withOutputs sound signal s) := by
  intro p hp
  cases p
  case ST => exact absurd List.mem_cons_self hp
  case redraw => exact absurd (List.mem_cons_of_mem _ List.mem_cons_self) hp
  case V | mem => exact fun _ => rfl
  all_goals rfl

theorem advance_withOutputs (sound : Byte) (signal : Bool) (s : State) :
    (withOutputs sound signal s).advance = withOutputs sound signal s.advance := rfl

theorem skipIf_withOutputs (sound : Byte) (signal : Bool) (s : State) (c : Bool) :
    (withOutputs sound signal s).skipIf c = withOutputs sound signal (s.skipIf c) := by
  cases c <;> rfl

/-- An effect is the same up to the outputs, which it may overwrite. -/
theorem effect_withOutputs (i : Instr) (sound : Byte) (signal : Bool) (s : State) :
    ∃ (sound' : Byte) (signal' : Bool),
      effect i (withOutputs sound signal s) = withOutputs sound' signal' (effect i s) := by
  cases i
  case seImm | sneImm | seReg | sneReg | skp | sknp =>
    exact ⟨sound, signal, skipIf_withOutputs sound signal s _⟩
  case ldVxK x =>
    refine ⟨sound, signal, ?_⟩
    have hkey : (withOutputs sound signal s).leastKey = s.leastKey := rfl
    rw [effect, effect, hkey]
    cases s.leastKey <;> rfl
  all_goals exact ⟨_, _, rfl⟩

/-! ## The latches -/

/-- The state with other latches. -/
def withLatches (latches : Vector Bool 16) (s : State) : State := { s with key := latches }

theorem frameExcept_withLatches (latches : Vector Bool 16) (s : State) :
    FrameExcept [.key] s (withLatches latches s) := by
  intro p hp
  cases p
  case key => exact absurd List.mem_cons_self hp
  case V | mem => exact fun _ => rfl
  all_goals rfl

theorem advance_withLatches (latches : Vector Bool 16) (s : State) :
    (withLatches latches s).advance = withLatches latches s.advance := rfl

theorem skipIf_withLatches (latches : Vector Bool 16) (s : State) (c : Bool) :
    (withLatches latches s).skipIf c = withLatches latches (s.skipIf c) := by
  cases c <;> rfl

/-- An effect of any but the three key instructions is the same up to the latches, which it keeps. -/
theorem effect_withLatches {i : Instr} (hi : i.mnemonic ∉ [Mnemonic.SKP, .SKNP, .LD_VX_K])
    (latches : Vector Bool 16) (s : State) :
    effect i (withLatches latches s) = withLatches latches (effect i s) := by
  cases i
  case skp | sknp | ldVxK => simp [Instr.mnemonic] at hi
  case seImm | sneImm | seReg | sneReg => exact skipIf_withLatches latches s _
  all_goals rfl

/-! ## The obligations -/

/-- Settles O16: another `ST` and `redraw` change the effect in these two alone. -/
theorem soundTimerAndRedrawAreNotRead : Obligations.SoundTimerAndRedrawAreNotRead := by
  intro s t sound signal h
  refine step_frameExcept (s' := withOutputs sound signal s) (by decide) (frameExcept_withOutputs _ _ s) ?_ h
  obtain ⟨sound', signal', heffect⟩ := effect_withOutputs (decode s.fetchWord) sound signal s.advance
  rw [advance_withOutputs, heffect]
  exact frameExcept_withOutputs _ _ _

/-- Settles O17: other latches change the effect in the latches alone. -/
theorem otherInstructionsDoNotReadTheLatches : Obligations.OtherInstructionsDoNotReadTheLatches := by
  intro s t latches hi h
  refine step_frameExcept (s' := withLatches latches s) (by decide) (frameExcept_withLatches latches s) ?_ h
  rw [advance_withLatches, effect_withLatches hi]
  exact frameExcept_withLatches latches _

end Sys2Proof.Machine
end

section
/-! PROOF. Single steps: `pc` stays even (10_state.md R25), the wait for a key spins (45_timers_input.md R223), and
stored code is fetched (20_memory.md R60). -/

namespace Sys2Proof.Machine

/-! ## Even program counters -/

theorem even_add_two {w : Word} (h : w.toNat % 2 = 0) : (w + 2).toNat % 2 = 0 := by
  rw [BitVec.toNat_add]
  simp only [BitVec.reduceToNat]
  omega

theorem even_sub_two {w : Word} (h : w.toNat % 2 = 0) : (w - 2).toNat % 2 = 0 := by
  rw [BitVec.toNat_sub]
  simp only [BitVec.reduceToNat]
  omega

theorem even_trunc16 {v : Nat} (h : v % 2 = 0) : (trunc16 v).toNat % 2 = 0 := by
  rw [trunc16_toNat]
  omega

/-- Settles O18: every word that an effect can leave in `pc` or on the stack is even. -/
theorem evenTargetsKeepPcEven : Obligations.EvenTargetsKeepPcEven := by
  intro s t hpc hstack htarget hoffset h
  by_cases hrunning : s.fault = none
  · obtain ⟨due, -, rfl⟩ | ⟨-, rfl⟩ := step_running_cases hrunning h
    · exact ⟨hpc, hstack⟩
    · have hnext : s.advance.pc.toNat % 2 = 0 := even_add_two hpc
      refine ⟨?_, effect_stack_forall (P := fun w => w.toNat % 2 = 0) _ hnext hstack⟩
      refine effect_pc_forall (P := fun w => w.toNat % 2 = 0) _ hnext hstack (even_add_two hnext)
        (even_sub_two hnext) rfl (fun nnn hjump => ?_) fun nnn hjump => even_trunc16 (hoffset nnn hjump)
      rw [addrOf_toNat]
      exact htarget nnn hjump
  · rw [step_halted s hrunning] at h
    obtain rfl := Host.Outcome.next.inj h
    exact ⟨hpc, hstack⟩

/-! ## The spin of Fx0A -/

/-- With no key down the wait goes back to its own address. -/
theorem exec_ldVxK_of_no_key {s : State} (hkeys : ∀ k : Fin 16, s.key[k] = false) (x : RegIdx) :
    exec (.ldVxK x) s = .next s.rewind := by
  rw [exec_ldVxK_eq, s.leastKey_eq_none.mpr hkeys]
  rfl

/-- Settles O19: the rewind of the wait undoes the advance of the step. -/
theorem waitKeySpinLeavesTheState : Obligations.WaitKeySpinLeavesTheState := by
  intro s x hrunning hpc hi hkeys
  rw [step_inside s hrunning (Nat.not_lt.mpr hpc), hi, exec_ldVxK_of_no_key (s := s.advance) hkeys,
    State.rewind_advance]

/-! ## Stored code -/

/-- The state that Fx55 leaves when its addresses lie in memory. -/
def stored (x : RegIdx) (s : State) : State := s.setMem (Memory.writeBytes s.mem s.I.toNat (s.regsUpTo x))

theorem exec_ldMemVx_of_le {x : RegIdx} {s : State} (h : s.I.toNat + (x.val + 1) ≤ 0x1000) :
    exec (.ldMemVx x) s = .next (stored x s) := by
  rw [exec_ldMemVx_eq, if_neg (by omega)]
  rfl

/-- Register `r` is read back at `I + r`. -/
theorem read_stored {x r : RegIdx} {s : State} (hwf : Memory.wf s.mem = true)
    (h : s.I.toNat + (x.val + 1) ≤ 0x1000) (hr : r ≤ x) :
    Memory.read (stored x s).mem (s.I.toNat + r.val) = s.reg r := by
  have hlt : r.val < x.val + 1 := Nat.lt_succ_of_le hr
  have hlen : s.I.toNat + (s.regsUpTo x).length ≤ 0x1000 := by rwa [State.regsUpTo_length]
  rw [stored, State.setMem_mem, Memory.read_writeBytes s.mem hwf _ _ hlen, State.regsUpTo_length,
    if_pos ⟨Nat.le_add_right _ _, Nat.add_lt_add_left hlt _⟩, Nat.add_sub_cancel_left, s.regsUpTo_getD x r hr]

/-- Settles O20: the word at `pc` is read back from the two bytes stored there. -/
theorem storedCodeIsFetchedNext : Obligations.StoredCodeIsFetchedNext := by
  intro s x k hwf hrunning hend hk hpc
  have hfits : s.I.toNat + (x.val + 1) ≤ 0x1000 := hend
  have hsucc : (k + 1).val = k.val + 1 := Fin.val_add_one_of_lt' (by omega)
  have hfirst : Memory.read (stored x s).mem (s.I.toNat + k.val) = s.reg k :=
    read_stored hwf hfits (Fin.le_def.mpr (by omega))
  have hsecond : Memory.read (stored x s).mem (s.I.toNat + k.val + 1) = s.reg (k + 1) := by
    rw [Nat.add_assoc, ← hsucc]
    exact read_stored hwf hfits (Fin.le_def.mpr (by omega))
  have hfetch : (stored x s).fetchWord = wordOfBytes (s.reg k) (s.reg (k + 1)) := by
    rw [State.fetchWord, stored, State.setMem_pc, hpc]
    exact congrArg₂ wordOfBytes hfirst hsecond
  have hinside : ¬ 0xFFE < (stored x s).pc.toNat := by
    rw [stored, State.setMem_pc]
    omega
  refine ⟨stored x s, exec_ldMemVx_of_le hfits, ?_⟩
  rw [step_inside (stored x s) hrunning hinside, hfetch]
  rfl

end Sys2Proof.Machine
end

section
/-! PROOF. The statements of 41_control_flow.md on the offset jump, the call and the return. -/

namespace Sys2Proof.Machine

/-! ## The offset jump -/

theorem exec_jpV0 (nnn : Addr12) (s : State) :
    exec (.jpV0 nnn) s = .next (s.jump (trunc16 (nnn.toNat + (s.reg 0).toNat))) := rfl

/-- Settles O22: the sum of a 12-bit and an 8-bit number is not truncated. -/
theorem offsetJumpAddsV0 : Obligations.OffsetJumpAddsV0 := fun nnn s =>
  ⟨_, exec_jpV0 nnn s, offsetTarget_toNat nnn (s.reg 0), frameExcept_jump s _⟩

/-! ## The call -/

/-- The state a call leaves when an entry is free. -/
def called (nnn : Addr12) (s : State) : State := (s.push s.pc).jump (addrOf nnn)

theorem exec_call_of_lt {s : State} (hsp : s.sp.toNat < 16) (nnn : Addr12) :
    exec (.call nnn) s = .next (called nnn s) := by
  rw [exec_call_eq, if_neg (Nat.not_le.mpr hsp)]
  rfl

theorem exec_call_of_ge {s : State} (hsp : 16 ≤ s.sp.toNat) (nnn : Addr12) :
    exec (.call nnn) s = .next (s.rewind.takeFault .stackOverflow s.sp.toNat) := by
  rw [exec_call_eq, if_pos hsp]

theorem called_sp_toNat {s : State} (hsp : s.sp.toNat < 16) (nnn : Addr12) :
    (called nnn s).sp.toNat = s.sp.toNat + 1 := push_sp_toNat hsp s.pc

theorem called_stackAt_same {s : State} (hsp : s.sp.toNat < 16) (nnn : Addr12) :
    (called nnn s).stackAt s.sp.toNat = some s.pc := by
  rw [State.stackAt, called, State.jump_stack, State.push_stack, Vector.getElem?_setIfInBounds_self_of_lt hsp]

theorem called_stackAt_other {s : State} {k : Nat} (hk : k ≠ s.sp.toNat) (nnn : Addr12) :
    (called nnn s).stackAt k = s.stackAt k := by
  rw [State.stackAt, called, State.jump_stack, State.push_stack, Vector.getElem?_setIfInBounds_ne hk.symm,
    State.stackAt]

/-- Settles O23: with an entry free the call pushes and jumps; with none it takes the fault. -/
theorem callPushesTheReturnAddress : Obligations.CallPushesTheReturnAddress := by
  refine fun nnn s => ⟨fun hsp => ?_, fun hsp => ⟨_, exec_call_of_ge hsp nnn, takesFault_rewind _ _ s⟩⟩
  exact ⟨called nnn s, exec_call_of_lt hsp nnn, called_stackAt_same hsp nnn,
    fun k hk => called_stackAt_other hk nnn, called_sp_toNat hsp nnn, addrOf_toNat nnn,
    frameExcept_pushJump s s.pc (addrOf nnn)⟩

/-! ## The return -/

theorem exec_ret_of_zero {s : State} (hsp : s.sp = 0) :
    exec .ret s = .next (s.rewind.takeFault .stackUnderflow 0) := by
  rw [exec_ret_eq, if_pos (by rw [hsp]; rfl)]

/-- With a return address held, the return pops it into `pc`. -/
theorem exec_ret_of_pos {s : State} (hpos : 0 < s.sp.toNat) {target : Word}
    (htarget : s.stackAt (s.sp.toNat - 1) = some target) : exec .ret s = .next (s.drop.jump target) := by
  obtain ⟨hlt, hentry⟩ := Vector.getElem?_eq_some_iff.mp htarget
  rw [exec_ret_eq, if_neg (Nat.ne_of_gt hpos), dif_pos hlt, hentry]

theorem sp_ne_zero_of_pos {s : State} (hpos : 0 < s.sp.toNat) : s.sp ≠ 0 := fun h => by
  rw [h] at hpos
  exact absurd hpos (by decide)

/-- Settles O24: the three ranges of `sp`. -/
theorem returnPopsTheReturnAddress : Obligations.ReturnPopsTheReturnAddress := by
  refine fun s => ⟨fun hpos hle => ?_, fun hsp => ⟨_, exec_ret_of_zero hsp, takesFault_rewind _ _ s⟩,
    exec_ret_above⟩
  have hlt : s.sp.toNat - 1 < 16 := by omega
  have hentry : s.stackAt (s.sp.toNat - 1) = some s.stack[s.sp.toNat - 1] := Vector.getElem?_eq_getElem hlt
  exact ⟨_, exec_ret_of_pos hpos hentry, hentry, drop_sp_toNat (sp_ne_zero_of_pos hpos),
    frameExcept_dropJump s _⟩

/-- Settles O25: the entry under the depth the call left is the address after the call. -/
theorem returnComesBackAfterTheCall : Obligations.ReturnComesBackAfterTheCall := by
  refine fun nnn s hsp => ⟨called nnn s, exec_call_of_lt hsp nnn, fun u hdepth hentry => ?_⟩
  have husp : u.sp.toNat = s.sp.toNat + 1 := hdepth ▸ called_sp_toNat hsp nnn
  have hpos : 0 < u.sp.toNat := by omega
  have htarget : u.stackAt (u.sp.toNat - 1) = some s.pc := by
    rw [husp, Nat.add_sub_cancel, hentry, called_stackAt_same hsp]
  refine ⟨_, exec_ret_of_pos hpos htarget, rfl, BitVec.eq_of_toNat_eq ?_⟩
  rw [State.jump_sp, drop_sp_toNat (sp_ne_zero_of_pos hpos), husp, Nat.add_sub_cancel]

end Sys2Proof.Machine
end

section
/-! PROOF. The statements of 42_alu.md on the copy, the bitwise logic and the random byte. -/

namespace Sys2Proof.Machine

theorem exec_ldReg (x y : RegIdx) (s : State) : exec (.ldReg x y) s = .next (s.setReg x (s.reg y)) := rfl

theorem exec_or (x y : RegIdx) (s : State) :
    exec (.or x y) s = .next (s.setReg x (s.reg x ||| s.reg y)) := rfl

theorem exec_and (x y : RegIdx) (s : State) :
    exec (.and x y) s = .next (s.setReg x (s.reg x &&& s.reg y)) := rfl

theorem exec_xor (x y : RegIdx) (s : State) :
    exec (.xor x y) s = .next (s.setReg x (s.reg x ^^^ s.reg y)) := rfl

theorem exec_rnd (x : RegIdx) (kk : Byte) (s : State) :
    exec (.rnd x kk) s = .next (s.countDraw.setReg x (s.drawn &&& kk)) := rfl

/-- An instruction that answers one register write leaves its result in `V[x]`, and all else alone. -/
theorem setReg_of_exec {i : Instr} {x : RegIdx} {v : Byte} {s : State}
    (hexec : exec i s = .next (s.setReg x v)) (result : Byte → Prop) (hresult : result v) :
    ∃ t : State, exec i s = .next t ∧ result (t.reg x) ∧ RegsExcept [x] s t ∧ FrameExcept [.V] s t :=
  ⟨_, hexec, (s.setReg_reg_same x v).symm ▸ hresult, regsExcept_setReg s x v, frameExcept_setReg s x v⟩

/-- Settles O29: one register write each, of the copy or of the bitwise result (decision D1). -/
theorem copyAndLogicLeaveVFAlone : Obligations.CopyAndLogicLeaveVFAlone := fun x y s =>
  ⟨setReg_of_exec (exec_ldReg x y s) (· = s.reg y) rfl,
    setReg_of_exec (exec_or x y s)
      (fun v => ∀ b, v.getLsbD b = ((s.reg x).getLsbD b || (s.reg y).getLsbD b)) fun _ => BitVec.getLsbD_or,
    setReg_of_exec (exec_and x y s)
      (fun v => ∀ b, v.getLsbD b = ((s.reg x).getLsbD b && (s.reg y).getLsbD b)) fun _ => BitVec.getLsbD_and,
    setReg_of_exec (exec_xor x y s)
      (fun v => ∀ b, v.getLsbD b = ((s.reg x).getLsbD b ^^ (s.reg y).getLsbD b)) fun _ => BitVec.getLsbD_xor⟩

/-- Settles O35: the draw is counted, and its masked byte written. -/
theorem randomByteIsMasked : Obligations.RandomByteIsMasked := fun x kk s =>
  ⟨_, exec_rnd x kk s, s.countDraw.setReg_reg_same x _, rfl, regsExcept_setReg s.countDraw x _,
    (frameExcept_countDrawSetReg s x _).mono (by decide)⟩

end Sys2Proof.Machine
end

section
/-! PROOF. The statements of 43_index_memory.md on the index register and the transfers. -/

namespace Sys2Proof.Machine

/-! ## The index register -/

theorem exec_addI (x : RegIdx) (s : State) :
    exec (.addI x) s = .next (s.setI (trunc16 (s.I.toNat + (s.reg x).toNat))) := rfl

theorem exec_ldF (x : RegIdx) (s : State) : exec (.ldF x) s = .next (s.setI (glyphAddr (s.reg x))) := rfl

/-- The greatest glyph address, 0x050 + 5 * 255, is a word. -/
theorem glyphAddr_toNat (v : Byte) : (glyphAddr v).toNat = 0x050 + 5 * v.toNat := by
  have := v.isLt
  rw [glyphAddr, trunc16_toNat, Config.fontBase, Config.fontGlyphBytes]
  omega

/-- The reset contents from 0x050 are the glyphs, five bytes a digit. -/
theorem resetByte_glyph : ∀ d : Fin 16,
    (List.range 5).map (fun j => resetByte (0x050 + 5 * d.val + j)) = Config.fontGlyphs.getD d.val [] := by
  decide

/-- Settles O37: a sum modulo 2^16. -/
theorem addIndexWraps : Obligations.AddIndexWraps := fun x s =>
  ⟨_, exec_addI x s, trunc16_toNat _, frameExcept_setI s _⟩

/-- Settles O38: the glyphs of the digits lie from 0x050 to 0x0A0, where memory still reads as at reset. -/
theorem fontAddressPointsAtTheGlyph : Obligations.FontAddressPointsAtTheGlyph := by
  refine fun x s => ⟨_, exec_ldF x s, glyphAddr_toNat _, frameExcept_setI s _, fun hdigit hfont => ?_⟩
  rw [← resetByte_glyph ⟨(s.reg x).toNat, hdigit⟩]
  refine List.map_congr_left fun j hj => ?_
  have hlt : j < 5 := List.mem_range.mp hj
  rw [State.setI_I, State.setI_mem, glyphAddr_toNat, hfont _ (by omega) (by omega)]
  rfl

/-! ## Transfers in memory -/

theorem exec_ldB_of_le {s : State} (h : s.I.toNat + 3 ≤ 0x1000) (x : RegIdx) :
    exec (.ldB x) s = .next (s.setMem (Memory.writeBytes s.mem s.I.toNat (bcdDigits (s.reg x)))) := by
  rw [exec_ldB_eq, if_neg (by omega)]

theorem exec_ldVxMem_of_le {x : RegIdx} {s : State} (h : s.I.toNat + (x.val + 1) ≤ 0x1000) :
    exec (.ldVxMem x) s = .next (s.loadRegs x) := by
  rw [exec_ldVxMem_eq, if_neg (by omega)]

/-- The digits of a byte are bytes. -/
theorem bcdDigits_toNat (v : Byte) :
    (bcdDigits v).map BitVec.toNat = [v.toNat / 100, v.toNat / 10 % 10, v.toNat % 10] := by
  have hlt : v.toNat < 256 := v.isLt
  have hhundreds : v.toNat / 100 % 256 = v.toNat / 100 := by omega
  have htens : v.toNat / 10 % 10 % 256 = v.toNat / 10 % 10 := by omega
  have hones : v.toNat % 10 % 256 = v.toNat % 10 := by omega
  simp only [bcdDigits, List.map_cons, List.map_nil, trunc8_toNat, hhundreds, htens, hones]

/-- Settles O39: the three digits are read back where they were written. -/
theorem bcdStoresThreeDigits : Obligations.BcdStoresThreeDigits := by
  intro x s hwf hfits
  have hread : ∀ j < 3, some (Memory.read (s.setMem (Memory.writeBytes s.mem s.I.toNat
      (bcdDigits (s.reg x)))).mem (s.I.toNat + j)).toNat =
        [(s.reg x).toNat / 100, (s.reg x).toNat / 10 % 10, (s.reg x).toNat % 10][j]? := by
    intro j hj
    rw [← bcdDigits_toNat, List.getElem?_map,
      ← read_setMem_writeBytes s hwf s.I.toNat (bcdDigits (s.reg x)) hfits hj]
    rfl
  exact ⟨_, exec_ldB_of_le hfits x, Option.some.inj (hread 0 (by decide)), Option.some.inj (hread 1 (by decide)),
    Option.some.inj (hread 2 (by decide)), memExcept_setMem_writeBytes s hwf _ (bcdDigits (s.reg x)) hfits,
    frameExcept_setMem s _⟩

theorem memExcept_stored {x : RegIdx} {s : State} (hwf : Memory.wf s.mem = true)
    (h : s.I.toNat + (x.val + 1) ≤ 0x1000) : MemExcept s.I.toNat (x.val + 1) s (stored x s) := by
  rw [← s.regsUpTo_length x] at h ⊢
  exact memExcept_setMem_writeBytes s hwf _ _ h

/-- Settles O40: the registers are read back where they were written. -/
theorem storeRegsWritesAscendingBytes : Obligations.StoreRegsWritesAscendingBytes := fun x s hwf hfits =>
  ⟨stored x s, exec_ldMemVx_of_le hfits, fun _ hr => read_stored hwf hfits hr, memExcept_stored hwf hfits,
    frameExcept_setMem s _⟩

/-- Settles O41: `loadRegs`, register by register. -/
theorem loadRegsReadsAscendingBytes : Obligations.LoadRegsReadsAscendingBytes := by
  refine fun x s hfits => ⟨_, exec_ldVxMem_of_le hfits, fun r hr => ?_, fun r hr => ?_, frameExcept_withV s _⟩
  · rw [State.loadRegs_reg, if_pos hr]
  · rw [State.loadRegs_reg, if_neg (not_le.mpr hr)]

/-- Settles O43: the load reads the bytes that the store wrote. -/
theorem loadRegsRestoresStoredRegs : Obligations.LoadRegsRestoresStoredRegs := by
  refine fun x s hwf hfits => ⟨stored x s, exec_ldMemVx_of_le hfits, rfl, fun u hI hbytes => ?_⟩
  have hfits' : u.I.toNat + (x.val + 1) ≤ 0x1000 := hI ▸ hfits
  refine ⟨_, exec_ldVxMem_of_le hfits', (u.loadRegs_I x).trans hI, fun r hr => ?_⟩
  have hrx : r.val ≤ x.val := hr
  rw [State.loadRegs_reg, if_pos hr, hI, hbytes _ (by omega) (by omega), read_stored hwf hfits hr]

/-! ## Transfers past memory -/

/-- An instruction that answers a raised fault takes it, and changes nothing else. -/
theorem takesFault_of_exec {i : Instr} {s : State} {c : FaultCause} {n : Nat}
    (hexec : exec i s = .next (s.rewind.takeFault c n)) :
    ∃ t : State, exec i s = .next t ∧ TakesFault c n s t := ⟨_, hexec, takesFault_rewind c n s⟩

/-- Settles O42: each transfer checks its last address before it writes. -/
theorem transferPastMemoryFaults : Obligations.TransferPastMemoryFaults := by
  refine fun x y n s => ⟨fun h => ?_, fun h => ⟨?_, ?_⟩, fun hn h => ?_⟩ <;> apply takesFault_of_exec
  · rw [exec_ldB_eq, if_pos ⟨by decide, h⟩]
  · rw [exec_ldMemVx_eq, if_pos ⟨Nat.succ_pos _, h⟩]
  · rw [exec_ldVxMem_eq, if_pos ⟨Nat.succ_pos _, h⟩]
  · rw [exec_drw_eq, if_pos ⟨hn, h⟩]

end Sys2Proof.Machine
end

section
/-! PROOF. The statements of 44_display.md on the sprite compositor. -/

namespace Sys2Proof.Machine

/-! ## What a draw leaves -/

/-- The state a draw leaves when its bytes lie in memory. -/
def drawn (x y : RegIdx) (n : Fin 16) (s : State) : State :=
  (s.touchFb (drawnCanvas x y n s).1).setReg Config.flagReg (flagByte (drawnCanvas x y n s).2)

/-- Whether the sprite of a draw has a 1 bit over a pixel. -/
def covers (x y : RegIdx) (n : Fin 16) (s : State) (row col : Nat) : Bool :=
  spriteCovers s.mem s.I.toNat ((s.reg x).toNat % 64) ((s.reg y).toNat % 32) n.val row col

/-- Whether one of its 1 bits lies over a lit pixel. -/
def Collides (x y : RegIdx) (n : Fin 16) (s : State) : Prop :=
  ∃ row col : Nat, covers x y n s row col = true ∧ Framebuffer.pixel s.fb row col = true

theorem exec_drw_of_le {n : Fin 16} {s : State} (h : n.val = 0 ∨ s.I.toNat + n.val ≤ 0x1000) (x y : RegIdx) :
    exec (.drw x y n) s = .next (drawn x y n s) := by
  rw [exec_drw_eq, if_neg (by omega)]
  rfl

theorem drawn_fb (x y : RegIdx) (n : Fin 16) (s : State) : (drawn x y n s).fb = (drawnCanvas x y n s).1 := rfl

theorem drawn_reg_flag (x y : RegIdx) (n : Fin 16) (s : State) :
    (drawn x y n s).reg 0xF = flagByte (drawnCanvas x y n s).2 :=
  State.setReg_reg_same _ _ _

theorem regsExcept_drawn (x y : RegIdx) (n : Fin 16) (s : State) : RegsExcept [0xF] s (drawn x y n s) :=
  regsExcept_setReg (s.touchFb _) _ _

/-- Every pixel is XORed with the sprite's bit over it. -/
theorem drawn_pixel (x y : RegIdx) (n : Fin 16) (s : State) (row col : Nat) :
    Framebuffer.pixel (drawn x y n s).fb row col =
      (Framebuffer.pixel s.fb row col ^^ covers x y n s row col) :=
  drawSprite_pixel s.mem _ _ _ _ s.fb row col

/-- VF is the collision flag. -/
theorem drawn_reg_flag_eq_one (x y : RegIdx) (n : Fin 16) (s : State) :
    (drawn x y n s).reg 0xF = 1 ↔ Collides x y n s := by
  rw [drawn_reg_flag, flagByte_eq_one]
  exact drawSprite_collision s.mem _ _ _ _ s.fb

theorem drawn_reg_flag_eq_zero (x y : RegIdx) (n : Fin 16) (s : State) :
    (drawn x y n s).reg 0xF = 0 ↔ ¬ Collides x y n s := by
  rw [← drawn_reg_flag_eq_one, drawn_reg_flag, flagByte_eq_zero, flagByte_eq_one, Bool.not_eq_true]

/-! ## What a draw depends on -/

/-- A draw reads memory byte by byte, so memories that read alike draw the same. -/
theorem drawSprite_congr {m m' : Memory} (h : ∀ a, Memory.read m' a = Memory.read m a) (base x0 y0 n : Nat)
    (fb : Framebuffer) : drawSprite m' base x0 y0 n fb = drawSprite m base x0 y0 n fb := by
  simp only [drawSprite, h]

section
variable {x y : RegIdx} {s s' : State} (hmem : ∀ a, Memory.read s'.mem a = Memory.read s.mem a)
  (hI : s'.I = s.I) (hx : (s'.reg x).toNat % 64 = (s.reg x).toNat % 64)
  (hy : (s'.reg y).toNat % 32 = (s.reg y).toNat % 32)
include hmem hI hx hy

theorem drawnCanvas_congr (n : Fin 16) (hfb : s'.fb = s.fb) : drawnCanvas x y n s' = drawnCanvas x y n s := by
  rw [drawnCanvas, drawSprite_congr hmem, hI, hx, hy, hfb, drawnCanvas]

theorem covers_congr (n : Fin 16) (row col : Nat) : covers x y n s' row col = covers x y n s row col := by
  rw [covers, spriteCovers, hmem, hI, hx, hy, covers, spriteCovers]

end

/-! ## The obligations -/

/-- Settles O45: the compositor's laws, read through the state a draw leaves. -/
theorem drawXorsTheClippedSprite : Obligations.DrawXorsTheClippedSprite := by
  refine fun x y n s hfits => ⟨drawn x y n s, exec_drw_of_le hfits x y,
    fun row col _ _ => drawn_pixel x y n s row col, (drawn_reg_flag_eq_one x y n s).mpr, fun hunlit => ?_, rfl, regsExcept_drawn x y n s,
    (frameExcept_touchFbSetReg s _ _ _).mono (by decide)⟩
  refine (drawn_reg_flag_eq_zero x y n s).mpr ?_
  rintro ⟨row, col, hcovers, hlit⟩
  exact Bool.false_ne_true ((hunlit row col hcovers).symm.trans hlit)

/-- Settles O46: the sprite is the same the second time, so each pixel is XORed twice with one bit; a covered pixel is
lit before the second draw exactly when it was unlit before the first. -/
theorem secondDrawRestoresEveryPixel : Obligations.SecondDrawRestoresEveryPixel := by
  refine fun x y n s hxF hyF hfits => ⟨drawn x y n s, exec_drw_of_le hfits x y, fun t' hframe => ?_⟩
  have hI : t'.I = s.I := hframe .I (by decide)
  have hfb : t'.fb = (drawn x y n s).fb := hframe .fb (by decide)
  have hmem : ∀ a, Memory.read t'.mem a = Memory.read s.mem a := hframe .mem (by decide)
  have hreg : ∀ r : RegIdx, r ≠ 0xF → t'.reg r = s.reg r := fun r hr =>
    (hframe .V (by decide) r).trans (regsExcept_drawn x y n s r (by simpa using hr))
  have hcovers : ∀ row col, covers x y n t' row col = covers x y n s row col :=
    covers_congr hmem hI (by rw [hreg x hxF]) (by rw [hreg y hyF]) n
  have hpixel : ∀ row col, Framebuffer.pixel t'.fb row col =
      (Framebuffer.pixel s.fb row col ^^ covers x y n s row col) := fun row col =>
    hfb ▸ drawn_pixel x y n s row col
  refine ⟨drawn x y n t', exec_drw_of_le (hI ▸ hfits) x y, fun row col _ _ => ?restored, ?collision⟩
  case restored => rw [drawn_pixel, hpixel, hcovers, Bool.xor_assoc, Bool.xor_self, Bool.xor_false]
  case collision =>
    rw [drawn_reg_flag_eq_one, Collides]
    refine exists_congr fun row => exists_congr fun col => ?_
    rw [hcovers, hpixel]
    refine and_congr_right fun hcovered => ?_
    rw [hcovered, Bool.xor_true, Bool.not_eq_true']

/-- Settles O47: a draw reads its coordinates through the wrapped origin alone. -/
theorem originWrapsModuloTheGrid : Obligations.OriginWrapsModuloTheGrid := by
  intro x y n s s' hframe hx hy hfits
  have hI : s'.I = s.I := hframe .I (by decide)
  have hcanvas : drawnCanvas x y n s' = drawnCanvas x y n s :=
    drawnCanvas_congr (hframe .mem (by decide)) hI hx hy n (hframe .fb (by decide))
  refine ⟨drawn x y n s, drawn x y n s', exec_drw_of_le hfits x y, exec_drw_of_le (hI ▸ hfits) x y, ?_, ?_⟩
  · rw [drawn_fb, drawn_fb, hcanvas]
  · rw [drawn_reg_flag, drawn_reg_flag, hcanvas]

end Sys2Proof.Machine
end

section
/-! PROOF. The statements of 45_timers_input.md on the keys. -/

namespace Sys2Proof.Machine

/-! ## SKP and SKNP -/

/-- A key instruction goes on with the latch that its register numbers. -/
theorem State.withKey_of_latch {s : State} {x : RegIdx} {pressed : Bool}
    (hlatch : s.key[(s.reg x).toNat]? = some pressed) (t : Bool → State) :
    s.withKey x t = .next (t pressed) := by
  rw [State.withKey, hlatch]

theorem State.withKey_of_ge {s : State} {x : RegIdx} (h : 16 ≤ (s.reg x).toNat) (t : Bool → State) :
    s.withKey x t = .next (s.rewind.takeFault .keyRange (s.reg x).toNat) := by
  rw [State.withKey_eq, dif_neg (Nat.not_lt.mpr h)]

/-- Settles O48: the two skips answer `skipIf` of the latch and of its negation, and past 15 the fault. -/
theorem keySkipsFollowTheLatch : Obligations.KeySkipsFollowTheLatch := by
  refine fun x s => ⟨fun pressed hlatch => ?latch, fun h => ⟨?_, ?_⟩⟩
  case latch =>
    refine ⟨⟨_, State.withKey_of_latch hlatch _, s.skipIf_pc pressed, frameExcept_skipIf s _⟩,
      ⟨_, State.withKey_of_latch hlatch _, ?_, frameExcept_skipIf s _⟩⟩
    rw [State.skipIf_pc]
    cases pressed <;> rfl
  all_goals exact takesFault_of_exec (State.withKey_of_ge h _)

/-! ## Fx0A -/

theorem exec_ldVxK_of_leastKey {s : State} {k : Fin 16} (h : s.leastKey = some k) (x : RegIdx) :
    exec (.ldVxK x) s = .next (s.setReg x (trunc8 k.val)) := by
  rw [exec_ldVxK_eq, h]
  rfl

/-- The number of a key is a byte. -/
theorem trunc8_key_toNat (k : Fin 16) : (trunc8 k.val).toNat = k.val := by
  rw [trunc8_toNat]
  omega

/-- Settles O49: the least key is written, or the wait goes back. -/
theorem waitKeyTakesTheLeastKey : Obligations.WaitKeyTakesTheLeastKey := by
  refine fun x s => ⟨fun k hdown hleast => ?_, fun hkeys => ?_⟩
  · have hkey : s.leastKey = some k := (s.leastKey_eq_some k).mpr ⟨hdown, hleast⟩
    exact setReg_of_exec (exec_ldVxK_of_leastKey hkey x) (·.toNat = k.val) (trunc8_key_toNat k)
  · exact ⟨_, exec_ldVxK_of_no_key hkeys x, rfl, frameExcept_jump s _⟩

end Sys2Proof.Machine
end

section
/-! PROOF. The statements of 60_exceptions.md and 70_reset_and_hazards.md on the tick, the reset and the halt. -/

namespace Sys2Proof.Machine

/-! ## The tick -/

theorem tickTimer_toNat (v : Byte) : (tickTimer v).toNat = v.toNat - 1 := by
  unfold tickTimer
  split
  case isTrue hzero => rw [hzero]; rfl
  case isFalse hpos => bv_omega

theorem frameExcept_tick (s : State) : FrameExcept [.DT, .ST] s (tick s) :=
  (frameExcept_setDT s _).append (frameExcept_setST _ _)

/-- Settles O51: both timers by `tickTimer`, in any state. -/
theorem tickCountsDownToZero : Obligations.TickCountsDownToZero := fun s =>
  ⟨tickTimer_toNat s.DT, tickTimer_toNat s.ST, frameExcept_tick s⟩

/-! ## The reset -/

theorem State.reset_stackAt {k : Nat} (hk : k < 16) : State.reset.stackAt k = some 0 := by
  simp [State.stackAt, State.reset, hk]

theorem State.reset_key (k : Fin 16) : State.reset.key[k] = false := by
  simp [State.reset]

theorem State.reset_pixel (row col : Nat) : Framebuffer.pixel State.reset.fb row col = false :=
  Framebuffer.pixel_blank row col

/-- Byte `j` of the glyph of digit `d` lies at 0x050 + 5 d + j. -/
theorem resetByte_glyph_getElem? {d j : Nat} (hd : d < 16) (hj : j < 5) :
    some (resetByte (0x050 + 5 * d + j)) = (Config.fontGlyphs.getD d [])[j]? := by
  rw [← resetByte_glyph ⟨d, hd⟩, List.getElem?_map, List.getElem?_range hj]
  rfl

theorem resetByte_outside_font {a : Nat} (ha : a < 0x050 ∨ 0x0A0 ≤ a) : resetByte a = 0 := by
  rw [resetByte, Config.fontBase, Config.fontGlyphBytes, Config.fontGlyphCount, if_neg (by omega)]

/-- Settles O54: each part of `State.reset`; `reset` keeps the model's own count of draws and nothing else. -/
theorem resetGivesEveryPartItsValue : Obligations.ResetGivesEveryPartItsValue := by
  intro s t ht
  obtain ⟨draws, rfl⟩ : ∃ draws : Nat, t = { State.reset with draws := draws } := by
    obtain rfl | rfl := ht
    · exact ⟨s.draws, rfl⟩
    · exact ⟨0, rfl⟩
  exact ⟨State.reset_reg, rfl, rfl, rfl, fun _ => State.reset_stackAt, rfl, rfl, State.reset_key,
    fun row col _ _ => State.reset_pixel row col, rfl, rfl, fun _ _ => resetByte_glyph_getElem?,
    fun _ => resetByte_outside_font⟩

/-! ## The halt -/

/-- Settles O56: a load that fits resets, a halted core does not step, and nothing else writes the latch. -/
theorem onlyALoadLeavesTheHalt : Obligations.OnlyALoadLeavesTheHalt := by
  intro e s t f hfault h
  cases e with
  | load bytes =>
    by_cases hfits : bytes.length ≤ 3584
    · rw [hostEvent_load_of_le hfits] at h
      obtain rfl := Host.Outcome.next.inj h
      exact ⟨fun _ _ _ => rfl, fun hlarge => absurd hfits (Nat.not_le.mpr (hlarge bytes rfl))⟩
    · rw [hostEvent_load_of_gt (Nat.lt_of_not_le hfits)] at h
      obtain rfl := Host.Outcome.next.inj h
      refine ⟨fun bytes' he hfits' => ?_, fun _ => hfault⟩
      cases he
      exact absurd hfits' hfits
  | step =>
    obtain rfl := Host.Outcome.next.inj ((haltedCoreDoesNotMove s f hfault).symm.trans h)
    exact ⟨fun _ he => (nomatch he), fun _ => hfault⟩
  | tick | keyWrite | frameConsume | toneRead | inspect =>
    obtain rfl := Host.Outcome.next.inj h
    exact ⟨fun _ he => (nomatch he), fun _ => hfault⟩

/-! ## The first step -/

/-- The word at 0x200 after construction is 0x0000. -/
theorem State.reset_fetchWord : State.reset.fetchWord = 0x0000 := by decide

theorem step_reset : step State.reset = .next (State.reset.advance.touchFb Framebuffer.blank) := by
  rw [step_inside State.reset rfl (by decide), State.reset_fetchWord, decode_eq_cls_of_mask 0x0000 rfl, exec_cls]

/-- Settles O57: the word 0x0000 is CLS, executed after the advance. -/
theorem firstStepAfterConstructionClears : Obligations.FirstStepAfterConstructionClears :=
  ⟨_, step_reset, rfl, rfl, fun row col _ _ => Framebuffer.pixel_blank row col,
    ((frameExcept_jump State.reset _).append (frameExcept_touchFb _ _)).mono (by decide)⟩

end Sys2Proof.Machine
end
